-- ==== Sys2Proof/Word.lean ====
section
/-! DEFINITION. The word and byte types of the block. 00_scope.md R8, R9: a word is 32 bits, unsigned, and its
sums and differences are taken modulo 2^32, which is what `+` and `-` of `BitVec 32` are. -/

namespace Sys2Proof

/-- A 32-bit unsigned word (R8, R9). -/
abbrev Word := BitVec 32

/-- An 8-bit value, the element of a byte string (R10). -/
abbrev Byte := BitVec 8

end Sys2Proof
end

