-- ==== Sys2Proof/Config.lean ====
section
/-! DEFINITION. What the spec leaves to the implementation: the parameters of 00_scope.md R7, the constants of R6
that its rules name, and the free values (the spec's draws), which have no body. -/

namespace Sys2Proof

/-- BLOCK_WORD_ORDER (R7): how the bytes of a block map to its words. -/
inductive WordOrder where
  | le
  | be
  deriving DecidableEq, Repr

/-- TEXT_ACCEPT (R7, 42_message_transform.md R153): the predicate behind STATUS.TEXT_OK. `strictUtf8` is the default
R153 spells out. `other n` is any other predicate, left uninterpreted as R153 allows (`Config.otherTextAccept`). -/
inductive TextRule where
  | strictUtf8
  | other (n : Nat)
  deriving DecidableEq, Repr

/-- Which of the two buffers of 20_memory.md R51. -/
inductive BufId where
  | inBuf
  | outBuf
  deriving DecidableEq, Repr

/-- The parameters of R7. LATENCY is not here: no rule depends on it (70_reset_and_hazards.md R251), and when a
command completes is said by the state's schedule (log 1). -/
structure Config where
  /-- the first word of the initial key table (R102) -/
  p : Word
  /-- the increment of the initial key table (R102) -/
  q : Word
  blockOrder : WordOrder
  /-- BUF_BYTES, the size of IN_BUF and of OUT_BUF -/
  bufBytes : Nat
  textRule : TextRule
  deriving DecidableEq, Repr

namespace Config

/-- The defaults R7 gives. PRESUMED (log 2): the spec takes P and Q from general knowledge. -/
def default : Config where
  p := 0xB7E15163
  q := 0x9E3779B9
  blockOrder := .le
  bufBytes := 4096
  textRule := .strictUtf8

/-- The ranges R7 gives: P odd; BUF_BYTES a multiple of 8 from 8 to 4096. -/
def wf (c : Config) : Bool :=
  c.p.getLsbD 0 && decide (c.bufBytes % 8 = 0 ∧ 8 ≤ c.bufBytes ∧ c.bufBytes ≤ 4096)

/-- ROUNDS (R6). -/
abbrev rounds : Nat := 12

/-- T, the length of the round-key table (R6). -/
abbrev tableLen : Nat := 26

/-- KEY_BYTES, the length of the working key (R6). -/
abbrev keyBytes : Nat := 16

/-- Free value: what round-key word `i` holds after power-on number `cycle` (10_state.md R24, a draw; log 5). -/
opaque powerOnWord (cycle i : Nat) : Word

/-- Free value: what byte `i` of a buffer holds after power-on number `cycle` (R28, R29, draws; log 6). -/
opaque powerOnByte (buf : BufId) (cycle i : Nat) : Byte

/-- Free value: what the `n`-th unspecified read of 20_memory.md R57 returns (log 7). -/
opaque busyRead (n : Nat) : Word

/-- Free value: the answer of a text rule that is not R153's default (R153: "A model that is unsure may leave
TEXT_ACCEPT uninterpreted"; log 4). -/
opaque otherTextAccept (n : Nat) (p : List Byte) : Bool

end Config

end Sys2Proof
end

