-- ==== Sys2Proof/Machine/Bits.lean ====
section
/-! DEFINITION. Word and byte helpers: rotations (41_block_transform.md R120, R121), the two byte orders of a word
(00_scope.md R10, 20_memory.md R59). -/

namespace Sys2Proof.Machine

/-- ROTL (R120): the amount is taken modulo 32, and an amount of 0 is the identity. -/
def rotl (x : Word) (s : Nat) : Word :=
  let r := s % 32
  if r = 0 then x else (x <<< r) ||| (x >>> (32 - r))

/-- ROTR (R121). -/
def rotr (x : Word) (s : Nat) : Word :=
  let r := s % 32
  if r = 0 then x else (x >>> r) ||| (x <<< (32 - r))

/-- LE32 (R10): byte 0 is the least significant. -/
def le32 (b0 b1 b2 b3 : Byte) : Word := b3 ++ b2 ++ b1 ++ b0

/-- BYTES_LE (R10). -/
def bytesLe (w : Word) : List Byte :=
  [w.extractLsb' 0 8, w.extractLsb' 8 8, w.extractLsb' 16 8, w.extractLsb' 24 8]

/-- The word of four bytes in a byte order (R59): for BE the first byte is the most significant. -/
def wordOf (order : WordOrder) (b0 b1 b2 b3 : Byte) : Word :=
  match order with
  | .le => le32 b0 b1 b2 b3
  | .be => le32 b3 b2 b1 b0

/-- The four bytes of a word in a byte order (R59). -/
def bytesOf (order : WordOrder) (w : Word) : List Byte :=
  match order with
  | .le => bytesLe w
  | .be => (bytesLe w).reverse

end Sys2Proof.Machine
end

