-- ==== Sys2Proof/Syntax.lean ====
section
/-! DEFINITION. The commands of the block (30_encoding.md R74), one constructor for each row of the opcode table, and
the fields of a command word (R70). A command has no operands (R71): its options are in the constructor. -/

namespace Sys2Proof

/-- The 19 legal commands of R74, each under the mnemonic of R77. -/
inductive Instr where
  /-- `NOP`, 0x000 (44_control.md R203) -/
  | nop
  /-- `KEY_SET`, 0x001 (40_key_scheduler.md R105) -/
  | keySet
  /-- `KSCHED`, 0x002 (40_key_scheduler.md R106) -/
  | ksched
  /-- `ENCB`, 0x003 (41_block_transform.md R126) -/
  | encb
  /-- `DECB`, 0x004 (41_block_transform.md R127) -/
  | decb
  /-- `ENC.hex`, 0x005 (42_message_transform.md R145) -/
  | encHex
  /-- `ENC.hex.sep`, 0x045 (R145) -/
  | encHexSep
  /-- `ENC.b64`, 0x015 (R145) -/
  | encB64
  /-- `ENC.raw`, 0x025 (R145) -/
  | encRaw
  /-- `DEC.auto`, 0x006 (42_message_transform.md R146) -/
  | decAuto
  /-- `DEC.auto.nostrip`, 0x406 (R146) -/
  | decAutoNostrip
  /-- `DEC.bytes`, 0x106 (R146) -/
  | decBytes
  /-- `DEC.bytes.nostrip`, 0x506 (R146) -/
  | decBytesNostrip
  /-- `DETECT`, 0x007 (43_format_helpers.md R180) -/
  | detect
  /-- `HEX_ENC`, 0x008 (R181) -/
  | hexEnc
  /-- `HEX_ENC.sep`, 0x048 (R181) -/
  | hexEncSep
  /-- `HEX_DEC`, 0x009 (R182) -/
  | hexDec
  /-- `B64_ENC`, 0x00A (R183) -/
  | b64Enc
  /-- `B64_DEC`, 0x00B (R184) -/
  | b64Dec
  deriving DecidableEq, Repr

/-- The fields of a command word, all of its 32 bits (R70). -/
structure CmdFields where
  /-- bits 3:0 -/
  op : BitVec 4
  /-- bits 5:4 -/
  ofmt : BitVec 2
  /-- bit 6 -/
  hexsep : Bool
  /-- bit 7, reserved -/
  bit7 : Bool
  /-- bits 9:8 -/
  ifmt : BitVec 2
  /-- bit 10 -/
  nostrip : Bool
  /-- bits 31:11, reserved -/
  high : BitVec 21
  deriving DecidableEq, Repr

/-- The output format that OFMT and HEXSEP select (R70, R144). -/
inductive OutFmt where
  | hex (sep : Bool)
  | base64
  | raw
  deriving DecidableEq, Repr

/-- The input format that IFMT selects (R70, R146). -/
inductive InFmt where
  | auto
  | bytes
  deriving DecidableEq, Repr

namespace CmdFields

/-- The fields of a command that takes no option: OP given, all else 0. -/
def plain (op : BitVec 4) : CmdFields :=
  { op := op, ofmt := 0, hexsep := false, bit7 := false, ifmt := 0, nostrip := false, high := 0 }

end CmdFields

namespace Instr

/-- The fields of each command's word, from R72 and from the option columns of R70. -/
def fields : Instr → CmdFields
  | .nop => .plain 0x0
  | .keySet => .plain 0x1
  | .ksched => .plain 0x2
  | .encb => .plain 0x3
  | .decb => .plain 0x4
  | .encHex => .plain 0x5
  | .encHexSep => { CmdFields.plain 0x5 with hexsep := true }
  | .encB64 => { CmdFields.plain 0x5 with ofmt := 1 }
  | .encRaw => { CmdFields.plain 0x5 with ofmt := 2 }
  | .decAuto => .plain 0x6
  | .decAutoNostrip => { CmdFields.plain 0x6 with nostrip := true }
  | .decBytes => { CmdFields.plain 0x6 with ifmt := 1 }
  | .decBytesNostrip => { CmdFields.plain 0x6 with ifmt := 1, nostrip := true }
  | .detect => .plain 0x7
  | .hexEnc => .plain 0x8
  | .hexEncSep => { CmdFields.plain 0x8 with hexsep := true }
  | .hexDec => .plain 0x9
  | .b64Enc => .plain 0xA
  | .b64Dec => .plain 0xB

end Instr

end Sys2Proof
end

