-- ==== Sys2Proof/WellFormed.lean ====
section
/-! DEFINITION. When a command word is legal (30_encoding.md R73): the rule's list of conditions, one named check for
each, over the fields of a word; and the same rule in its match-and-mask form. A command is well formed when its
fields are legal. The decoder (Decode.lean) does not use these checks: that the two agree is a statement. -/

namespace Sys2Proof

namespace CmdFields

/-- R73: "OP <= 0xB". -/
def opDefined (f : CmdFields) : Bool := f.op.toNat ≤ 0xB

/-- R73: "every bit in 31:11 and bit 7 is 0". -/
def reservedZero (f : CmdFields) : Bool := f.high == 0 && !f.bit7

/-- R73: "OFMT is used only by ENC". -/
def ofmtOnlyEnc (f : CmdFields) : Bool := f.op == 0x5 || f.ofmt == 0

/-- R73: "for ENC: OFMT != 3". -/
def ofmtDefined (f : CmdFields) : Bool := f.op != 0x5 || f.ofmt != 3

/-- R73: "HEXSEP is used only by ENC and HEX_ENC". -/
def hexsepOnlyHex (f : CmdFields) : Bool := f.op == 0x5 || f.op == 0x8 || !f.hexsep

/-- R73, for ENC: "HEXSEP = 1 only with OFMT = 0". -/
def hexsepWithHex (f : CmdFields) : Bool := f.op != 0x5 || !f.hexsep || f.ofmt == 0

/-- R73: "IFMT and NOSTRIP are used only by DEC". -/
def decOptionsOnlyDec (f : CmdFields) : Bool := f.op == 0x6 || (f.ifmt == 0 && !f.nostrip)

/-- R73: "for DEC: IFMT is 0 or 1". -/
def ifmtDefined (f : CmdFields) : Bool := f.op != 0x6 || f.ifmt.toNat ≤ 1

/-- R73: all the conditions. -/
def legal (f : CmdFields) : Bool :=
  f.opDefined && f.reservedZero && f.ofmtOnlyEnc && f.ofmtDefined && f.hexsepOnlyHex && f.hexsepWithHex
    && f.decOptionsOnlyDec && f.ifmtDefined

end CmdFields

/-- A row of R73's table "written as match and mask": `w &&& mask = pattern` and the extra constraint. -/
structure MaskRow where
  mnemonic : String
  pattern : Word
  mask : Word
  extra : Word → Bool

/-- A row of R73's table with the full mask and no extra constraint. -/
def MaskRow.exact (mnemonic : String) (pattern : Word) : MaskRow :=
  { mnemonic := mnemonic, pattern := pattern, mask := 0xFFFFFFFF, extra := fun _ => true }

/-- R73's table. -/
def maskTable : List MaskRow :=
  [.exact "NOP" 0x0, .exact "KEY_SET" 0x1, .exact "KSCHED" 0x2, .exact "ENCB" 0x3, .exact "DECB" 0x4,
    { mnemonic := "ENC", pattern := 0x5, mask := 0xFFFFFF8F,
      extra := fun w => w.extractLsb' 4 2 != 3 && (!w.getLsbD 6 || w.extractLsb' 4 2 == 0) },
    { mnemonic := "DEC", pattern := 0x6, mask := 0xFFFFF8FF, extra := fun w => (w.extractLsb' 8 2).toNat ≤ 1 },
    .exact "DETECT" 0x7,
    { mnemonic := "HEX_ENC", pattern := 0x8, mask := 0xFFFFFFBF, extra := fun _ => true },
    .exact "HEX_DEC" 0x9, .exact "B64_ENC" 0xA, .exact "B64_DEC" 0xB]

/-- R73: `legal(cmd) <=> cmd and mask = match`, plus the row's extra constraint, for some row. -/
def maskLegal (w : Word) : Bool :=
  maskTable.any fun r => w &&& r.mask == r.pattern && r.extra w

/-- A command is well formed when its fields are legal. -/
def Instr.wf (i : Instr) : Bool := i.fields.legal

end Sys2Proof
end

