-- ==== Sys2Proof/Decode.lean ====
section
/-! DEFINITION. The decoder and the encoder of command words (30_encoding.md R70 to R76). The decoder is total: every
word is a command or is rejected by name; every rejection is reported by the machine as ILLEGAL_CMD (R75). -/

namespace Sys2Proof

/-- Why a word is no command (R73, R75). -/
inductive DecodeError where
  /-- not the four bytes of one word (R70) -/
  | notOneWord
  /-- bits 31:11 not 0 -/
  | reservedHighBits
  /-- bit 7 not 0 -/
  | reservedBit7
  /-- OP 0xC to 0xF -/
  | reservedOpcode
  /-- an option field set that the opcode does not take -/
  | unusedFieldSet
  /-- ENC with OFMT = 3 -/
  | reservedOfmt
  /-- ENC with HEXSEP = 1 and OFMT not 0 -/
  | hexsepWithoutHex
  /-- DEC with IFMT = 2 or 3 -/
  | reservedIfmt
  deriving DecidableEq, Repr

/-- The fields of a word (R70, R71: each one `cmd[hi:lo]`). -/
def unpack (w : Word) : CmdFields :=
  { op := w.extractLsb' 0 4
    ofmt := w.extractLsb' 4 2
    hexsep := w.getLsbD 6
    bit7 := w.getLsbD 7
    ifmt := w.extractLsb' 8 2
    nostrip := w.getLsbD 10
    high := w.extractLsb' 11 21 }

/-- The word with the given fields (R70). -/
def pack (f : CmdFields) : Word :=
  f.high ++ BitVec.ofBool f.nostrip ++ f.ifmt ++ BitVec.ofBool f.bit7 ++ BitVec.ofBool f.hexsep ++ f.ofmt ++ f.op

/-- A command that takes no option (R73). -/
def decodePlain (f : CmdFields) (i : Instr) : Except DecodeError Instr :=
  if f.ofmt = 0 ∧ f.hexsep = false ∧ f.ifmt = 0 ∧ f.nostrip = false then .ok i else .error .unusedFieldSet

/-- ENC: OFMT and HEXSEP (R70, R73). -/
def decodeEnc (f : CmdFields) : Except DecodeError Instr :=
  if f.ifmt = 0 ∧ f.nostrip = false then
    match f.ofmt.toNat, f.hexsep with
    | 0, false => .ok .encHex
    | 0, true => .ok .encHexSep
    | 1, false => .ok .encB64
    | 2, false => .ok .encRaw
    | 1, true => .error .hexsepWithoutHex
    | 2, true => .error .hexsepWithoutHex
    | _, _ => .error .reservedOfmt
  else .error .unusedFieldSet

/-- DEC: IFMT and NOSTRIP (R70, R73). -/
def decodeDec (f : CmdFields) : Except DecodeError Instr :=
  if f.ofmt = 0 ∧ f.hexsep = false then
    match f.ifmt.toNat, f.nostrip with
    | 0, false => .ok .decAuto
    | 0, true => .ok .decAutoNostrip
    | 1, false => .ok .decBytes
    | 1, true => .ok .decBytesNostrip
    | _, _ => .error .reservedIfmt
  else .error .unusedFieldSet

/-- HEX_ENC: HEXSEP (R70, R73). -/
def decodeHexEnc (f : CmdFields) : Except DecodeError Instr :=
  if f.ofmt = 0 ∧ f.ifmt = 0 ∧ f.nostrip = false then
    .ok (if f.hexsep then .hexEncSep else .hexEnc)
  else .error .unusedFieldSet

/-- The opcode map of R72. -/
def decodeFields (f : CmdFields) : Except DecodeError Instr :=
  if f.high ≠ 0 then .error .reservedHighBits
  else if f.bit7 then .error .reservedBit7
  else
    match f.op.toNat with
    | 0x0 => decodePlain f .nop
    | 0x1 => decodePlain f .keySet
    | 0x2 => decodePlain f .ksched
    | 0x3 => decodePlain f .encb
    | 0x4 => decodePlain f .decb
    | 0x5 => decodeEnc f
    | 0x6 => decodeDec f
    | 0x7 => decodePlain f .detect
    | 0x8 => decodeHexEnc f
    | 0x9 => decodePlain f .hexDec
    | 0xA => decodePlain f .b64Enc
    | 0xB => decodePlain f .b64Dec
    | _ => .error .reservedOpcode

/-- The command a word stands for. -/
def decode (w : Word) : Except DecodeError Instr := decodeFields (unpack w)

/-- The command that bytes of the window stand for: one word, little-endian (R70, 20_memory.md R53). -/
def decodeBytes : List Byte → Except DecodeError Instr
  | [b0, b1, b2, b3] => decode (Machine.le32 b0 b1 b2 b3)
  | _ => .error .notOneWord

/-- The word of each command, from the list of R74. -/
def encode : Instr → Word
  | .nop => 0x000
  | .keySet => 0x001
  | .ksched => 0x002
  | .encb => 0x003
  | .decb => 0x004
  | .encHex => 0x005
  | .encHexSep => 0x045
  | .encB64 => 0x015
  | .encRaw => 0x025
  | .decAuto => 0x006
  | .decAutoNostrip => 0x406
  | .decBytes => 0x106
  | .decBytesNostrip => 0x506
  | .detect => 0x007
  | .hexEnc => 0x008
  | .hexEncSep => 0x048
  | .hexDec => 0x009
  | .b64Enc => 0x00A
  | .b64Dec => 0x00B

/-- The bytes of each command's word as the window holds them (R53). -/
def encodeBytes (i : Instr) : List Byte := Machine.bytesLe (encode i)

/-- The word of a row of the opcode table: `nbits` bits given, every bit above them 0. -/
def tableWord (nbits w : Nat) : Word := BitVec.ofNat 32 (w % 2 ^ nbits)

/-- What the decoder reads from a row of the opcode table. -/
def decodeTableWord (nbits w : Nat) : Option Instr :=
  (decodeBytes (Machine.bytesLe (tableWord nbits w))).toOption

end Sys2Proof
end

