-- ==== Sys2Proof/Machine/Cipher.lean ====
section
/-! DEFINITION. The cipher as functions: key normalization and schedule (40_key_scheduler.md R100 to R104), block and
words (41_block_transform.md R123), the block functions (R124, R125). The commands that use them are in
Machine/KeyScheduler.lean, BlockTransform.lean and MessageTransform.lean. -/

namespace Sys2Proof.Machine

/-- The round-key table S[0..25] (10_state.md R24). -/
abbrev RoundKeys := Vector Word 26

/-- The working key K[0..15] (10_state.md R22). -/
abbrev WorkingKey := Vector Byte 16

/-- Round-key word `n`. The block functions index 0 to 25 only (R124: "S[0] to S[25], each once"). -/
def keyWord (S : RoundKeys) (n : Nat) : Word := S[n]?.getD 0

/-! ### Key schedule -/

/-- KeyNormalize (R100): truncate or zero-pad to 16 bytes. -/
def keyNormalize (b : List Byte) : WorkingKey := Vector.ofFn fun i => b.getD i.val 0

/-- c of R101: `max(1, ceil(len(b)/4))`. -/
def keyWordCount (b : List Byte) : Nat := max 1 ((b.length + 3) / 4)

/-- KeyWords (R101); bytes past the end are the zero bytes that R101 pads with. -/
def keyWords (b : List Byte) : List Word :=
  (List.range (keyWordCount b)).map fun j =>
    le32 (b.getD (4 * j) 0) (b.getD (4 * j + 1) 0) (b.getD (4 * j + 2) 0) (b.getD (4 * j + 3) 0)

/-- Word `i` of the initial table (R102): `S[0] = P`, `S[i] = S[i-1] + Q`. -/
def initWord (p q : Word) : Nat → Word
  | 0 => p
  | i + 1 => initWord p q i + q

/-- InitTable (R102; 90_conflicts.md C1: 26 words, no S[26]). -/
def initTable (p q : Word) : RoundKeys := Vector.ofFn fun i => initWord p q i.val

/-- The working values of Mix (R103; 10_state.md R39: local, they do not persist). -/
structure MixState where
  a : Word
  b : Word
  i : Fin 26
  j : Nat
  s : RoundKeys
  l : List Word
  deriving DecidableEq, Repr

/-- One iteration of Mix (R103): the B step uses the A just computed, in the sum and in the amount. -/
def mixStep (m : MixState) : MixState :=
  let a := rotl (m.s[m.i] + m.a + m.b) 3
  let b := rotl (m.l.getD m.j 0 + a + m.b) ((a + m.b).toNat % 32)
  { a := a
    b := b
    i := ⟨(m.i.val + 1) % 26, Nat.mod_lt _ (by decide)⟩
    j := (m.j + 1) % m.l.length
    s := m.s.set m.i.val a
    l := m.l.set m.j b }

/-- `n` iterations of Mix. -/
def mixSteps : Nat → MixState → MixState
  | 0, m => m
  | n + 1, m => mixSteps n (mixStep m)

/-- Mix (R103): `3 * max(T, c)` iterations from A = B = i = j = 0. -/
def mix (s : RoundKeys) (l : List Word) : RoundKeys :=
  (mixSteps (3 * max 26 l.length) { a := 0, b := 0, i := 0, j := 0, s := s, l := l }).s

/-- KS (R104). -/
def keySchedule (p q : Word) (k : WorkingKey) : RoundKeys := mix (initTable p q) (keyWords k.toList)

/-! ### Block transform -/

/-- One encryption round (R124); `B` uses the A just computed. -/
def encRound (S : RoundKeys) (ab : Word × Word) (round : Nat) : Word × Word :=
  let a := rotl (ab.1 ^^^ ab.2) (ab.2.toNat % 32) + keyWord S (2 * round)
  let b := rotl (ab.2 ^^^ a) (a.toNat % 32) + keyWord S (2 * round + 1)
  (a, b)

/-- One decryption round (R125); `A` uses the B just computed. -/
def decRound (S : RoundKeys) (ab : Word × Word) (round : Nat) : Word × Word :=
  let b := rotr (ab.2 - keyWord S (2 * round + 1)) (ab.1.toNat % 32) ^^^ ab.1
  let a := rotr (ab.1 - keyWord S (2 * round)) (b.toNat % 32) ^^^ b
  (a, b)

/-- The round numbers 1 to ROUNDS, in encryption order. -/
def roundNumbers : List Nat := List.range' 1 Config.rounds

/-- EncBlock (R124). -/
def encBlock (S : RoundKeys) (ab : Word × Word) : Word × Word :=
  roundNumbers.foldl (encRound S) (ab.1 + keyWord S 0, ab.2 + keyWord S 1)

/-- DecBlock (R125). -/
def decBlock (S : RoundKeys) (ab : Word × Word) : Word × Word :=
  let r := roundNumbers.reverse.foldl (decRound S) ab
  (r.1 - keyWord S 0, r.2 - keyWord S 1)

/-- Words (R123), of the eight bytes of a block. -/
def blockWords (order : WordOrder) (b0 b1 b2 b3 b4 b5 b6 b7 : Byte) : Word × Word :=
  (wordOf order b0 b1 b2 b3, wordOf order b4 b5 b6 b7)

/-- Bytes (R123). -/
def blockBytes (order : WordOrder) (ab : Word × Word) : List Byte :=
  bytesOf order ab.1 ++ bytesOf order ab.2

/-- A block function applied to every 8-byte block of a byte string, in increasing block order, the results
concatenated (R141, R142). Bytes that make no whole block are dropped; no command passes any. -/
def mapBlocks (order : WordOrder) (f : Word × Word → Word × Word) : List Byte → List Byte
  | b0 :: b1 :: b2 :: b3 :: b4 :: b5 :: b6 :: b7 :: rest =>
    blockBytes order (f (blockWords order b0 b1 b2 b3 b4 b5 b6 b7)) ++ mapBlocks order f rest
  | _ => []

end Sys2Proof.Machine
end

