-- ==== Sys2Proof/Machine/Codec.lean ====
section
/-! DEFINITION. The encoding helpers and the format detector as functions (43_format_helpers.md R170 to R179). -/

namespace Sys2Proof.Machine

/-- The format classes of R178 and the values of STATUS.FMT (10_state.md R33). -/
inductive Fmt where
  /-- no detection ran -/
  | none
  | hex
  | base64
  /-- neither hex nor Base64 -/
  | raw
  deriving DecidableEq, Repr

/-! ### Whitespace and hex -/

/-- The six whitespace bytes of R170. -/
def isSpace (v : Byte) : Bool :=
  v == 0x09 || v == 0x0A || v == 0x0B || v == 0x0C || v == 0x0D || v == 0x20

/-- Strip (R170). -/
def strip (s : List Byte) : List Byte := s.filter fun v => !isSpace v

/-- The value of a hex digit (R171); no other byte has one. -/
def hexVal (v : Byte) : Option (BitVec 4) :=
  if 0x30 ≤ v.toNat ∧ v.toNat ≤ 0x39 then some (BitVec.ofNat 4 (v.toNat - 0x30))
  else if 0x61 ≤ v.toNat ∧ v.toNat ≤ 0x66 then some (BitVec.ofNat 4 (v.toNat - 0x61 + 10))
  else if 0x41 ≤ v.toNat ∧ v.toNat ≤ 0x46 then some (BitVec.ofNat 4 (v.toNat - 0x41 + 10))
  else none

/-- The lowercase digit of a value, from "0123456789abcdef" (R172). -/
def hexDigit (d : BitVec 4) : Byte :=
  if d.toNat < 10 then BitVec.ofNat 8 (0x30 + d.toNat) else BitVec.ofNat 8 (0x61 + d.toNat - 10)

/-- The two digits of a byte, high half first (R172). -/
def hexPair (v : Byte) : List Byte := [hexDigit (v.extractLsb' 4 4), hexDigit (v.extractLsb' 0 4)]

/-- HexEncode (R172): with `sep`, one 0x20 between consecutive pairs and none at either end. -/
def hexEncode (sep : Bool) : List Byte → List Byte
  | [] => []
  | [v] => hexPair v
  | v :: rest => hexPair v ++ (if sep then [0x20] else []) ++ hexEncode sep rest

/-- IsHex (R173; 90_conflicts.md C10: the empty string is not hex). -/
def isHex (t : List Byte) : Bool :=
  decide (1 ≤ t.length) && t.length % 2 == 0 && t.all fun v => (hexVal v).isSome

/-- HexDecode (R174), for a `t` with `isHex t`. -/
def hexDecode : List Byte → List Byte
  | hi :: lo :: rest => ((hexVal hi).getD 0 ++ (hexVal lo).getD 0 : BitVec (4 + 4)) :: hexDecode rest
  | _ => []

/-! ### Base64 -/

/-- The padding character '=' (R175). -/
abbrev padChar : Byte := 0x3D

/-- The character of a 6-bit value (R175). -/
def b64Char (v : BitVec 6) : Byte :=
  if v.toNat < 26 then BitVec.ofNat 8 (0x41 + v.toNat)
  else if v.toNat < 52 then BitVec.ofNat 8 (0x61 + v.toNat - 26)
  else if v.toNat < 62 then BitVec.ofNat 8 (0x30 + v.toNat - 52)
  else if v.toNat = 62 then 0x2B
  else 0x2F

/-- The 6-bit value of a character of the alphabet (R175); no other byte has one. -/
def b64Val (c : Byte) : Option (BitVec 6) :=
  if 0x41 ≤ c.toNat ∧ c.toNat ≤ 0x5A then some (BitVec.ofNat 6 (c.toNat - 0x41))
  else if 0x61 ≤ c.toNat ∧ c.toNat ≤ 0x7A then some (BitVec.ofNat 6 (c.toNat - 0x61 + 26))
  else if 0x30 ≤ c.toNat ∧ c.toNat ≤ 0x39 then some (BitVec.ofNat 6 (c.toNat - 0x30 + 52))
  else if c = 0x2B then some 62
  else if c = 0x2F then some 63
  else none

/-- The characters of `n[23:18]`, `n[17:12]`, `n[11:6]`, `n[5:0]` (R176). -/
def b64Quad (n : BitVec 24) : Byte × Byte × Byte × Byte :=
  (b64Char (n.extractLsb' 18 6), b64Char (n.extractLsb' 12 6), b64Char (n.extractLsb' 6 6), b64Char (n.extractLsb' 0 6))

/-- B64Encode (R176). -/
def b64Encode : List Byte → List Byte
  | [] => []
  | [b0] =>
    let q := b64Quad (b0 ++ (0 : Byte) ++ (0 : Byte) : BitVec (8 + 8 + 8))
    [q.1, q.2.1, padChar, padChar]
  | [b0, b1] =>
    let q := b64Quad (b0 ++ b1 ++ (0 : Byte) : BitVec (8 + 8 + 8))
    [q.1, q.2.1, q.2.2.1, padChar]
  | b0 :: b1 :: b2 :: rest =>
    let q := b64Quad (b0 ++ b1 ++ b2 : BitVec (8 + 8 + 8))
    q.1 :: q.2.1 :: q.2.2.1 :: q.2.2.2 :: b64Encode rest

/-- The body and the padding of R177 (b): the characters before the first '=', and the rest. -/
def b64Body (t : List Byte) : List Byte := t.takeWhile fun v => v != padChar

/-- See `b64Body`. -/
def b64Pad (t : List Byte) : List Byte := t.dropWhile fun v => v != padChar

/-- The bits of four characters, the first in the most significant position (R177). -/
def b64Bits (c0 c1 c2 c3 : Byte) : BitVec (6 + 6 + 6 + 6) :=
  (b64Val c0).getD 0 ++ (b64Val c1).getD 0 ++ (b64Val c2).getD 0 ++ (b64Val c3).getD 0

/-- The bytes of a body (R177): R177 keeps `8 * (3*len(t)/4 - len(pad))` bits, which is three bytes of every whole
group of four characters, two of a last group of three, one of a last group of two. -/
def b64DecodeBody : List Byte → List Byte
  | c0 :: c1 :: c2 :: c3 :: rest =>
    let n := b64Bits c0 c1 c2 c3
    n.extractLsb' 16 8 :: n.extractLsb' 8 8 :: n.extractLsb' 0 8 :: b64DecodeBody rest
  | [c0, c1, c2] =>
    let n := b64Bits c0 c1 c2 0x41
    [n.extractLsb' 16 8, n.extractLsb' 8 8]
  | [c0, c1] => [(b64Bits c0 c1 0x41 0x41).extractLsb' 16 8]
  | _ => []

/-- B64Decode (R177), for a `t` with `b64Valid t`. -/
def b64Decode (t : List Byte) : List Byte := b64DecodeBody (b64Body t)

/-- B64Valid (R177): (a) the length, (b) body and padding, (c) room for the padding, (d) the exact round trip
(90_conflicts.md C4: strict). -/
def b64Valid (t : List Byte) : Bool :=
  t.length % 4 == 0
    && (b64Pad t == [] || b64Pad t == [padChar] || b64Pad t == [padChar, padChar])
    && (b64Body t).all (fun v => (b64Val v).isSome)
    && (b64Pad t == [] || decide (4 ≤ t.length))
    && b64Encode (b64Decode t) == t

/-! ### Auto-detection -/

/-- Detect (R178): hex first, then Base64, otherwise RAW. -/
def detectFmt (s : List Byte) : Fmt :=
  let t := strip s
  if isHex t then .hex else if b64Valid t then .base64 else .raw

/-- DecodeInput (R179), for HEX and BASE64; it is not called for the others. -/
def decodeInput (f : Fmt) (s : List Byte) : List Byte :=
  match f with
  | .hex => hexDecode (strip s)
  | .base64 => b64Decode (strip s)
  | .none => []
  | .raw => []

end Sys2Proof.Machine
end

