-- ==== Sys2Proof/Machine/Message.lean ====
section
/-! DEFINITION. The message functions (42_message_transform.md R140 to R144) and the text check (R153). -/

namespace Sys2Proof.Machine

/-- Pad (R140). -/
def pad (m : List Byte) : List Byte := m ++ List.replicate ((8 - m.length % 8) % 8) 0

/-- Unpad (R143): every trailing zero byte goes (90_conflicts.md C6: across blocks too). -/
def unpad (p : List Byte) : List Byte := (p.reverse.dropWhile fun v => v == 0).reverse

/-- EncBytes (R141). -/
def encBytes (order : WordOrder) (S : RoundKeys) (x : List Byte) : List Byte := mapBlocks order (encBlock S) x

/-- DecBytes (R142). -/
def decBytes (order : WordOrder) (S : RoundKeys) (c : List Byte) : List Byte := mapBlocks order (decBlock S) c

/-- Encode (R144). -/
def encodeOutput (f : OutFmt) (c : List Byte) : List Byte :=
  match f with
  | .hex sep => hexEncode sep c
  | .base64 => b64Encode c
  | .raw => c

/-! ### The text check -/

/-- A byte in a range of R153's table. -/
def inRange (v : Byte) (lo hi : Nat) : Bool := decide (lo ≤ v.toNat ∧ v.toNat ≤ hi)

/-- The third and fourth column of R153's table: 80..BF. -/
def isCont (v : Byte) : Bool := inRange v 0x80 0xBF

/-- The two-byte row of R153's table. -/
def isSeq2 (b0 b1 : Byte) : Bool := inRange b0 0xC2 0xDF && isCont b1

/-- The three-byte rows of R153's table. -/
def isSeq3 (b0 b1 b2 : Byte) : Bool :=
  ((inRange b0 0xE0 0xE0 && inRange b1 0xA0 0xBF) || (inRange b0 0xE1 0xEC && isCont b1)
    || (inRange b0 0xED 0xED && inRange b1 0x80 0x9F) || (inRange b0 0xEE 0xEF && isCont b1)) && isCont b2

/-- The four-byte rows of R153's table. -/
def isSeq4 (b0 b1 b2 b3 : Byte) : Bool :=
  ((inRange b0 0xF0 0xF0 && inRange b1 0x90 0xBF) || (inRange b0 0xF1 0xF3 && isCont b1)
    || (inRange b0 0xF4 0xF4 && inRange b1 0x80 0x8F)) && isCont b2 && isCont b3

/-- The six payload bits of a continuation byte. -/
def contBits (v : Byte) : Nat := v.toNat % 64

/-- The characters of a well-formed UTF-8 string, as code points; none when it is not well formed (R153, 1). The code
point of each sequence is the one whose range R153's table gives (PRESUMED, log 10). -/
def utf8Chars : List Byte → Option (List Nat)
  | [] => some []
  | b0 :: r0 =>
    if b0.toNat ≤ 0x7F then (utf8Chars r0).map (b0.toNat :: ·)
    else
      match r0 with
      | [] => none
      | b1 :: r1 =>
        if isSeq2 b0 b1 then (utf8Chars r1).map ((b0.toNat % 32 * 64 + contBits b1) :: ·)
        else
          match r1 with
          | [] => none
          | b2 :: r2 =>
            if isSeq3 b0 b1 b2 then
              (utf8Chars r2).map ((b0.toNat % 16 * 4096 + contBits b1 * 64 + contBits b2) :: ·)
            else
              match r2 with
              | [] => none
              | b3 :: r3 =>
                if isSeq4 b0 b1 b2 b3 then
                  (utf8Chars r3).map
                    ((b0.toNat % 8 * 262144 + contBits b1 * 4096 + contBits b2 * 64 + contBits b3) :: ·)
                else none

/-- The characters R153, 2 rejects: the replacement character and the control characters other than tab, line feed
and carriage return. -/
def isRejectedChar (c : Nat) : Bool :=
  c == 0xFFFD || decide (c ≤ 0x08) || c == 0x0B || c == 0x0C || decide (0x0E ≤ c ∧ c ≤ 0x1F)
    || decide (0x7F ≤ c ∧ c ≤ 0x9F)

/-- R153's default predicate. -/
def isPlainText (p : List Byte) : Bool :=
  match utf8Chars p with
  | none => false
  | some cs => cs.all fun c => !isRejectedChar c

/-- TEXT_ACCEPT (R153), the parameter. -/
def textAccept (rule : TextRule) (p : List Byte) : Bool :=
  match rule with
  | .strictUtf8 => isPlainText p
  | .other n => Config.otherTextAccept n p

end Sys2Proof.Machine
end

