-- ==== Sys2Proof/Machine/State.lean ====
section
/-! DEFINITION. The state of the block (10_state.md R20 to R43) as plain data, why a step can stop, and the state after
power-on reset (70_reset_and_hazards.md R240). -/

namespace Sys2Proof.Machine

/-- The codes of STATUS.ERR (60_exceptions.md R211). The codes 6 to 15 are never produced. -/
inductive ErrCode where
  | ok
  | invalidLength
  | unsupportedFormat
  | illegalCmd
  | noKey
  | overflow
  deriving DecidableEq, Repr

/-- A buffer: the bytes written since power-on, by index, in strictly rising index order. An index that is not listed
has not been written, and a read of it gives the free value `Config.powerOnByte` (log 6). -/
abbrev Memory := List Host.Cell

/-- The values that the pending command captured at acceptance (R38, 44_control.md R201). -/
structure Inputs where
  key : WorkingKey
  keyValid : Bool
  sTable : RoundKeys
  sValid : Bool
  inlen : Word
  inBuf : Memory
  dataA : Word
  dataB : Word
  deriving DecidableEq, Repr

/-- The pending command (R38). -/
structure Pending where
  cmd : Word
  inputs : Inputs
  deriving DecidableEq, Repr

/-- The width of a host access. 20_memory.md R52 defines `word` only. -/
inductive Width where
  | byte
  | half
  | word
  deriving DecidableEq, Repr

/-- The host's operations (30_encoding.md R78, R79). An offset is a window offset (20_memory.md R50). -/
inductive HostOp where
  /-- `WR off, v` -/
  | wr (width : Width) (off : Nat) (v : Word)
  /-- `RD off` -/
  | rd (width : Width) (off : Nat)
  /-- `POLL` -/
  | poll
  /-- `WAITIRQ` -/
  | waitIrq
  /-- `RDOUT` -/
  | rdout
  deriving DecidableEq, Repr

/-- What moves next (log 1): the host, the engine completing its command (R202: "at any time while BUSY = 1"), or
power (R240). -/
inductive Event where
  | host (op : HostOp)
  | engine
  | powerOn
  deriving DecidableEq, Repr

/-- Why the machine would stop with a fault. There is none: "Nothing in the block is `stuck`. Every accepted command
completes" (93_implementation_defined.md, part 1). An error of a command is a next state with STATUS.ERR written. -/
inductive Fault where
  deriving DecidableEq, Repr

/-- Why a step has no meaning. The three access refusals are the ones 93_implementation_defined.md U1 asks for
(20_memory.md R52); `hostAccess` raises them, never a command; safe (log 8). -/
inductive Refusal where
  /-- raised by `exec` for a command that has no meaning yet; no command is in this case; safe -/
  | notModelled (mnemonic : String)
  /-- an 8-bit or 16-bit host access (U1); raised by the host's access; safe -/
  | accessWidth
  /-- a host access at an offset with bits [1:0] not 00 (U1); raised by the host's access; safe -/
  | misalignedOffset
  /-- a host access at offset 0x3000 or above (U1); raised by the host's access; safe -/
  | offsetOutsideWindow
  deriving DecidableEq, Repr

structure State where
  /-- the parameters of 00_scope.md R7; no step changes them (log 2) -/
  cfg : Config
  /-- DATA_A (R21) -/
  dataA : Word
  /-- DATA_B (R21) -/
  dataB : Word
  /-- K[0..15] (R22) -/
  key : WorkingKey
  /-- KEYVALID, STATUS[2] (R23) -/
  keyValid : Bool
  /-- S[0..25] (R24) -/
  sTable : RoundKeys
  /-- SVALID, STATUS[3] (R25) -/
  sValid : Bool
  /-- INLEN (R26) -/
  inlen : Word
  /-- OUTLEN (R27) -/
  outlen : Word
  /-- IN_BUF (R28) -/
  inBuf : Memory
  /-- OUT_BUF (R29) -/
  outBuf : Memory
  /-- CTRL.IE (R30) -/
  ie : Bool
  /-- STATUS.DONE (R31) -/
  done : Bool
  /-- STATUS.TEXT_OK (R31, R32) -/
  textOk : Bool
  /-- STATUS.ACCERR (R31, 60_exceptions.md R212) -/
  accErr : Bool
  /-- STATUS.ERR (R31) -/
  err : ErrCode
  /-- STATUS.FMT (R31, R33) -/
  fmt : Fmt
  /-- the pending command (R38); STATUS.BUSY is 1 exactly when there is one (R37; log 9) -/
  pending : Option Pending
  /-- what happens next, in order: the host's program, the engine's completions, power (model's own; log 1) -/
  schedule : List Event
  /-- what the host's reads returned, newest first: offset and data (model's own; log 11) -/
  hostReads : List (Nat × Word)
  /-- how many unspecified reads (20_memory.md R57) there were (model's own; log 7) -/
  draws : Nat
  /-- how many power-on resets after the first there were (model's own; log 12) -/
  powerCycle : Nat
  deriving DecidableEq, Repr

/-- STATUS.BUSY (R31, R37). -/
def State.busy (s : State) : Bool := s.pending.isSome

/-- What S holds after power-on number `cycle`: a draw in every word (R24, R240; log 5). -/
def powerOnTable (cycle : Nat) : RoundKeys := Vector.ofFn fun i => Config.powerOnWord cycle i.val

/-- The state after power-on reset (R240), with the default parameters of R7, nothing scheduled and nothing read. -/
def State.reset : State where
  cfg := Config.default
  dataA := 0
  dataB := 0
  key := Vector.replicate 16 0
  keyValid := false
  sTable := powerOnTable 0
  sValid := false
  inlen := 0
  outlen := 0
  inBuf := []
  outBuf := []
  ie := false
  done := false
  textOk := false
  accErr := false
  err := .ok
  fmt := .none
  pending := none
  schedule := []
  hostReads := []
  draws := 0
  powerCycle := 0

end Sys2Proof.Machine
end

