-- ==== Sys2Proof/Machine/Flags.lean ====
section
/-! DEFINITION. The status fields: their codes and packed views (10_state.md R30, R31, R33, 60_exceptions.md R211), the
IRQ line (R41, R214), and how the host's writes to STATUS and ACCERR change them. -/

namespace Sys2Proof.Machine

/-- The 4-bit code of an error (R211). -/
def ErrCode.code : ErrCode → BitVec 4
  | .ok => 0
  | .invalidLength => 1
  | .unsupportedFormat => 2
  | .illegalCmd => 3
  | .noKey => 4
  | .overflow => 5

/-- The 2-bit code of a format (R33). -/
def Fmt.code : Fmt → BitVec 2
  | .none => 0
  | .hex => 1
  | .base64 => 2
  | .raw => 3

namespace State

/-- The STATUS word (R31): FMT in 13:12, ERR in 11:8, then ACCERR, TEXT_OK, SVALID, KEYVALID, DONE and BUSY in 5 to 0;
the reserved bits read 0. -/
def statusWord (s : State) : Word :=
  (0 : BitVec 18) ++ s.fmt.code ++ s.err.code ++ (0 : BitVec 2) ++ BitVec.ofBool s.accErr ++ BitVec.ofBool s.textOk
    ++ BitVec.ofBool s.sValid ++ BitVec.ofBool s.keyValid ++ BitVec.ofBool s.done ++ BitVec.ofBool s.busy

/-- The CTRL word (R30): IE in bit 0; SRST and the reserved bits read 0. -/
def ctrlWord (s : State) : Word := (0 : BitVec 31) ++ BitVec.ofBool s.ie

/-- The IRQ line (R41, R214). -/
def irq (s : State) : Bool := s.ie && s.done

/-- A host write to STATUS (R31): W1C of DONE (bit 1) and ACCERR (bit 5), no other change. Clearing DONE is the return
from a completion (60_exceptions.md R216). -/
def writeStatus (s : State) (v : Word) : State :=
  { s with done := s.done && !v.getLsbD 1, accErr := s.accErr && !v.getLsbD 5 }

/-- A host write that is ignored because BUSY = 1 (20_memory.md R57, 60_exceptions.md R212). -/
def markAccErr (s : State) : State := { s with accErr := true }

end State

end Sys2Proof.Machine
end

