-- ==== Sys2Proof/Machine/Ops.lean ====
section
/-! DEFINITION. The shared operations on memory and registers: the buffers, how a command ends (00_scope.md R12,
44_control.md R202; the analogue of taking an exception, 60_exceptions.md R210, R215), what a command commits, command
acceptance (R201), and the resets (70_reset_and_hazards.md R240, R241). -/

namespace Sys2Proof.Machine

/-- The outcome of a command or of a step. -/
abbrev Result := Host.Outcome State Fault Refusal

/-! ### Buffers -/

namespace Memory

/-- The canonical form: indices strictly rising. -/
def wf : Memory → Bool
  | [] => true
  | [_] => true
  | c :: d :: rest => decide (c.1 < d.1) && wf (d :: rest)

/-- Every listed index is below `n`. -/
def below (n : Nat) (m : Memory) : Bool := m.all fun c => decide (c.1 < n)

/-- The byte written at an index, or none where nothing has been written since power-on. -/
def lookup : Memory → Nat → Option Byte
  | [], _ => none
  | c :: rest, a => if c.1 = a then some c.2 else lookup rest a

/-- Write one byte, keeping the canonical form. -/
def put : Memory → Nat → Byte → Memory
  | [], a, v => [(a, v)]
  | c :: rest, a, v =>
    if a < c.1 then (a, v) :: c :: rest
    else if a = c.1 then (a, v) :: rest
    else c :: put rest a v

/-- MemWrite (00_scope.md R11): the bytes at `a`, `a + 1`, and so on. -/
def putBytes (m : Memory) (a : Nat) : List Byte → Memory
  | [] => m
  | v :: rest => putBytes (put m a v) (a + 1) rest

/-- The byte at an index; where nothing has been written, the draw made at power-on (R28, R29; log 6). -/
def byteAt (m : Memory) (buf : BufId) (cycle a : Nat) : Byte :=
  (m.lookup a).getD (Config.powerOnByte buf cycle a)

/-- MemRead (R11) from index 0: the first `n` bytes. -/
def readBytes (m : Memory) (buf : BufId) (cycle n : Nat) : List Byte :=
  (List.range n).map fun a => m.byteAt buf cycle a

/-- The word of a window offset, little-endian (20_memory.md R53). -/
def wordAt (m : Memory) (buf : BufId) (cycle a : Nat) : Word :=
  le32 (m.byteAt buf cycle a) (m.byteAt buf cycle (a + 1)) (m.byteAt buf cycle (a + 2)) (m.byteAt buf cycle (a + 3))

end Memory

namespace State

/-- Byte `i` of IN_BUF. -/
def inByte (s : State) (i : Nat) : Byte := s.inBuf.byteAt .inBuf s.powerCycle i

/-- Byte `i` of OUT_BUF. -/
def outByte (s : State) (i : Nat) : Byte := s.outBuf.byteAt .outBuf s.powerCycle i

/-! ### The end of a command -/

/-- The completion step (R202, R12 `finish(E, fmt, text)`): ERR, FMT and TEXT_OK written, DONE set, and BUSY cleared
with the pending command gone. IRQ is computed (`irq`), so it rises here when IE = 1. -/
def finish (s : State) (e : ErrCode) (f : Fmt) (text : Bool) : State :=
  { s with err := e, fmt := f, textOk := text, done := true, pending := none }

/-- `raise E` (R12, 60_exceptions.md R210): the command ends with ERR = E, the format result it has computed so far,
TEXT_OK = 0, and nothing committed. The one operation by which every error of a command is taken. -/
def raise (s : State) (e : ErrCode) (f : Fmt) : State := s.finish e f false

/-- A command that ends without an error. -/
def succeed (s : State) (f : Fmt) (text : Bool) : State := s.finish .ok f text

/-! ### Commits -/

/-- `K <- k; KEYVALID <- 1; SVALID <- 0` (40_key_scheduler.md R105). -/
def commitKey (s : State) (k : WorkingKey) : State := { s with key := k, keyValid := true, sValid := false }

/-- `S <- S'; SVALID <- 1` (R106, 42_message_transform.md R145, R146). -/
def commitTable (s : State) (t : RoundKeys) : State := { s with sTable := t, sValid := true }

/-- `DATA_A <- a; DATA_B <- b` (41_block_transform.md R126, R127). -/
def commitData (s : State) (ab : Word × Word) : State := { s with dataA := ab.1, dataB := ab.2 }

/-- `MemWrite(OUT, 0, o); OUTLEN <- len(o)`; the bytes beyond stay as they are (10_state.md R29). -/
def commitOut (s : State) (o : List Byte) : State :=
  { s with outBuf := s.outBuf.putBytes 0 o, outlen := BitVec.ofNat 32 o.length }

/-! ### Acceptance -/

/-- The values a command reads, as they are now (R38, R201). -/
def snapshot (s : State) : Inputs :=
  { key := s.key, keyValid := s.keyValid, sTable := s.sTable, sValid := s.sValid, inlen := s.inlen, inBuf := s.inBuf,
    dataA := s.dataA, dataB := s.dataB }

/-- Acceptance of a command word (R201): BUSY <- 1, DONE, ERR, FMT and TEXT_OK cleared, the word and the inputs
captured. Whether the word is legal shows at completion (log 14). -/
def accept (s : State) (w : Word) : State :=
  { s with done := false, err := .ok, fmt := .none, textOk := false, pending := some { cmd := w, inputs := s.snapshot } }

/-! ### Resets -/

/-- Soft reset (R241): the pending command is gone with no completion, every element takes its power-on value, but
IN_BUF, OUT_BUF and the contents of S stay. -/
def softReset (s : State) : State :=
  { s with
    dataA := 0, dataB := 0, key := Vector.replicate 16 0, keyValid := false, sValid := false, inlen := 0, outlen := 0,
    ie := false, done := false, textOk := false, accErr := false, err := .ok, fmt := .none, pending := none }

/-- Power-on reset (R240): the soft reset's values, and new draws in S, IN_BUF and OUT_BUF. -/
def powerOnReset (s : State) : State :=
  { s.softReset with
    sTable := powerOnTable (s.powerCycle + 1), inBuf := [], outBuf := [], powerCycle := s.powerCycle + 1 }

/-- A host write to CTRL (10_state.md R30): SRST = 1 resets, and IE stays 0; otherwise IE takes bit 0. -/
def writeCtrl (s : State) (v : Word) : State :=
  if v.getLsbD 1 then s.softReset else { s with ie := v.getLsbD 0 }

end State

end Sys2Proof.Machine
end

