-- ==== Sys2Proof/Machine/Operands.lean ====
section
/-! DEFINITION. The operands of commands and of host accesses: the captured inputs of the pending command (10_state.md
R38), the checks that guard them (60_exceptions.md R213), and the address map of the window (20_memory.md R54). -/

namespace Sys2Proof.Machine

namespace State

/-- The values a command works on: what the pending command captured (R38, R202: "evaluates body on pending.inputs").
With no pending command no command runs; the current values then stand in (log 9). -/
def operands (s : State) : Inputs :=
  match s.pending with
  | some p => p.inputs
  | none => s.snapshot

/-- `MemRead(IN, 0, n)` on the captured input (R11, R60). -/
def inputBytes (s : State) (n : Nat) : List Byte := s.operands.inBuf.readBytes .inBuf s.powerCycle n

/-- `KS(K)` of the captured key (40_key_scheduler.md R104). -/
def freshTable (s : State) : RoundKeys := keySchedule s.cfg.p s.cfg.q s.operands.key

end State

/-- A command that reads IN_BUF: OVERFLOW when INLEN > BUF_BYTES (10_state.md R26), otherwise `body`. -/
def checkInput (s : State) (body : Result) : Result :=
  if s.cfg.bufBytes < s.operands.inlen.toNat then .next (s.raise .overflow .none) else body

/-- A command that reads the whole valid input `IN_BUF[0..INLEN)` (R60). -/
def withInput (s : State) (body : List Byte → Result) : Result :=
  checkInput s (body (s.inputBytes s.operands.inlen.toNat))

/-- A command that needs a key: NO_KEY when KEYVALID = 0 (R23). -/
def requireKey (s : State) (body : Result) : Result :=
  if s.operands.keyValid then body else .next (s.raise .noKey .none)

/-- A command that needs a table: NO_KEY when SVALID = 0 (R25). -/
def requireTable (s : State) (body : Result) : Result :=
  if s.operands.sValid then body else .next (s.raise .noKey .none)

/-- A command whose output may be too long: OVERFLOW when it would exceed BUF_BYTES (R211). -/
def checkOutput (s : State) (o : List Byte) (body : Result) : Result :=
  if s.cfg.bufBytes < o.length then .next (s.raise .overflow .none) else body

/-! ### The address map -/

/-- What stands at a window offset (R54). The offset of a window is its buffer index. -/
inductive Reg where
  | id
  | ctrl
  | status
  | cmd
  | inlen
  | outlen
  | dataA
  | dataB
  | key (n : Nat)
  | bufsize
  | sWord (i : Nat)
  | inWindow (i : Nat)
  | outWindow (i : Nat)
  | reserved
  deriving DecidableEq, Repr

/-- The address map of R54, for an offset that is a multiple of 4 below 0x3000. -/
def regOf (off : Nat) : Reg :=
  if 0x2000 ≤ off then .outWindow (off - 0x2000)
  else if 0x1000 ≤ off then .inWindow (off - 0x1000)
  else if 0x040 ≤ off ∧ off ≤ 0x0A4 then .sWord ((off - 0x040) / 4)
  else if 0x020 ≤ off ∧ off ≤ 0x02C then .key ((off - 0x020) / 4)
  else
    match off with
    | 0x000 => .id
    | 0x004 => .ctrl
    | 0x008 => .status
    | 0x00C => .cmd
    | 0x010 => .inlen
    | 0x014 => .outlen
    | 0x018 => .dataA
    | 0x01C => .dataB
    | 0x030 => .bufsize
    | _ => .reserved

/-- The constant of the ID register (R34). -/
def idWord : Word := 0x52433501

/-- `KEYn` (R22). -/
def keyRegister (k : WorkingKey) (n : Nat) : Word :=
  le32 (k[4 * n]?.getD 0) (k[4 * n + 1]?.getD 0) (k[4 * n + 2]?.getD 0) (k[4 * n + 3]?.getD 0)

/-- What a read of a register or window word returns while BUSY = 0 (R54, R55). -/
def State.readReg (s : State) : Reg → Word
  | .id => idWord
  | .ctrl => s.ctrlWord
  | .status => s.statusWord
  | .cmd => 0
  | .inlen => s.inlen
  | .outlen => s.outlen
  | .dataA => s.dataA
  | .dataB => s.dataB
  | .key n => keyRegister s.key n
  | .bufsize => BitVec.ofNat 32 s.cfg.bufBytes
  | .sWord i => keyWord s.sTable i
  | .inWindow i => if i < s.cfg.bufBytes then s.inBuf.wordAt .inBuf s.powerCycle i else 0
  | .outWindow i => if i < s.cfg.bufBytes then s.outBuf.wordAt .outBuf s.powerCycle i else 0
  | .reserved => 0

/-- What a write of a register or window word does while BUSY = 0 (R56); read-only and reserved places ignore it. -/
def State.writeReg (s : State) (r : Reg) (v : Word) : State :=
  match r with
  | .ctrl => s.writeCtrl v
  | .status => s.writeStatus v
  | .cmd => s.accept v
  | .inlen => { s with inlen := v }
  | .dataA => { s with dataA := v }
  | .dataB => { s with dataB := v }
  | .inWindow i => if i < s.cfg.bufBytes then { s with inBuf := s.inBuf.putBytes i (bytesLe v) } else s
  | .id => s
  | .outlen => s
  | .key _ => s
  | .bufsize => s
  | .sWord _ => s
  | .outWindow _ => s
  | .reserved => s

/-- The registers whose reads are specified while BUSY = 1 (R57). -/
def Reg.readableWhileBusy : Reg → Bool
  | .id => true
  | .ctrl => true
  | .status => true
  | .bufsize => true
  | _ => false

/-- The registers whose writes act while BUSY = 1 (R57). -/
def Reg.writableWhileBusy : Reg → Bool
  | .ctrl => true
  | .status => true
  | _ => false

end Sys2Proof.Machine
end

