-- ==== Sys2Proof/Machine/BlockTransform.lean ====
section
/-! DEFINITION. The block commands (41_block_transform.md). -/

namespace Sys2Proof.Machine

/-- ENCB (R126). -/
def execEncb (s : State) : Result :=
  requireTable s
    (.next ((s.commitData (encBlock s.operands.sTable (s.operands.dataA, s.operands.dataB))).succeed .none false))

/-- DECB (R127). -/
def execDecb (s : State) : Result :=
  requireTable s
    (.next ((s.commitData (decBlock s.operands.sTable (s.operands.dataA, s.operands.dataB))).succeed .none false))

end Sys2Proof.Machine
end

