-- ==== Sys2Proof/Machine/Control.lean ====
section
/-! DEFINITION. The control command (44_control.md). -/

namespace Sys2Proof.Machine

/-- NOP (R203). -/
def execNop (s : State) : Result := .next (s.succeed .none false)

end Sys2Proof.Machine
end

