-- ==== Sys2Proof/Machine/FormatHelpers.lean ====
section
/-! DEFINITION. The helper commands (43_format_helpers.md). -/

namespace Sys2Proof.Machine

/-- A helper command's end: `commit { MemWrite(OUT, 0, o); OUTLEN <- len(o) }; finish(OK, 0, 0)`. -/
def finishOutput (s : State) (o : List Byte) : Result := .next ((s.commitOut o).succeed .none false)

/-- An encoding helper: both OVERFLOW checks (R181, R183). -/
def encodeHelper (f : List Byte → List Byte) (s : State) : Result :=
  withInput s fun m => checkOutput s (f m) (finishOutput s (f m))

/-- A decoding helper: UNSUPPORTED_FORMAT when the stripped input is not valid (R182, R184). -/
def decodeHelper (valid : List Byte → Bool) (f : List Byte → List Byte) (s : State) : Result :=
  withInput s fun m =>
    if valid (strip m) then finishOutput s (f (strip m)) else .next (s.raise .unsupportedFormat .none)

/-- DETECT (R180). -/
def execDetect (s : State) : Result := withInput s fun m => .next (s.succeed (detectFmt m) false)

/-- HEX_ENC (R181). -/
def execHexEnc (s : State) : Result := encodeHelper (hexEncode false) s

/-- HEX_ENC.sep (R181). -/
def execHexEncSep (s : State) : Result := encodeHelper (hexEncode true) s

/-- HEX_DEC (R182). -/
def execHexDec (s : State) : Result := decodeHelper isHex hexDecode s

/-- B64_ENC (R183). -/
def execB64Enc (s : State) : Result := encodeHelper b64Encode s

/-- B64_DEC (R184). -/
def execB64Dec (s : State) : Result := decodeHelper b64Valid b64Decode s

end Sys2Proof.Machine
end

