-- ==== Sys2Proof/Machine/KeyScheduler.lean ====
section
/-! DEFINITION. The key commands (40_key_scheduler.md). -/

namespace Sys2Proof.Machine

/-- KEY_SET (R105): only `IN_BUF[0..min(INLEN,16))` is read. -/
def execKeySet (s : State) : Result :=
  checkInput s
    (.next ((s.commitKey (keyNormalize (s.inputBytes (min s.operands.inlen.toNat 16)))).succeed .none false))

/-- KSCHED (R106). -/
def execKsched (s : State) : Result := requireKey s (.next ((s.commitTable s.freshTable).succeed .none false))

end Sys2Proof.Machine
end

