-- ==== Sys2Proof/Machine/MessageTransform.lean ====
section
/-! DEFINITION. The message commands (42_message_transform.md). -/

namespace Sys2Proof.Machine

/-- The output of ENC (R145): pad, encrypt with a fresh table, encode. -/
def encOutput (s : State) (f : OutFmt) (m : List Byte) : List Byte :=
  encodeOutput f (encBytes s.cfg.blockOrder s.freshTable (pad m))

/-- ENC (R145), for the output format that OFMT and HEXSEP select. -/
def encMessage (f : OutFmt) (s : State) : Result :=
  requireKey s (withInput s fun m =>
    checkOutput s (encOutput s f m)
      (.next (((s.commitTable s.freshTable).commitOut (encOutput s f m)).succeed .none false)))

/-- The plaintext of DEC (R146): decrypt with a fresh table, unpad unless NOSTRIP. -/
def decOutput (s : State) (nostrip : Bool) (c : List Byte) : List Byte :=
  let p := decBytes s.cfg.blockOrder s.freshTable c
  if nostrip then p else unpad p

/-- DEC (R146) from the decoded ciphertext on; `f` is the format result so far. -/
def decCiphertext (f : Fmt) (nostrip : Bool) (c : List Byte) (s : State) : Result :=
  if c.length % 8 ≠ 0 then .next (s.raise .invalidLength f)
  else
    .next (((s.commitTable s.freshTable).commitOut (decOutput s nostrip c)).succeed f
      (textAccept s.cfg.textRule (decOutput s nostrip c)))

/-- DEC (R146), for the input format that IFMT selects. -/
def decMessage (f : InFmt) (nostrip : Bool) (s : State) : Result :=
  requireKey s (withInput s fun m =>
    match f with
    | .bytes => decCiphertext .none nostrip m s
    | .auto =>
      if detectFmt m = .raw then .next (s.raise .unsupportedFormat .raw)
      else decCiphertext (detectFmt m) nostrip (decodeInput (detectFmt m) m) s)

/-- ENC.hex (R145). -/
def execEncHex (s : State) : Result := encMessage (.hex false) s

/-- ENC.hex.sep (R145). -/
def execEncHexSep (s : State) : Result := encMessage (.hex true) s

/-- ENC.b64 (R145). -/
def execEncB64 (s : State) : Result := encMessage .base64 s

/-- ENC.raw (R145). -/
def execEncRaw (s : State) : Result := encMessage .raw s

/-- DEC.auto (R146). -/
def execDecAuto (s : State) : Result := decMessage .auto false s

/-- DEC.auto.nostrip (R146). -/
def execDecAutoNostrip (s : State) : Result := decMessage .auto true s

/-- DEC.bytes (R146). -/
def execDecBytes (s : State) : Result := decMessage .bytes false s

/-- DEC.bytes.nostrip (R146). -/
def execDecBytesNostrip (s : State) : Result := decMessage .bytes true s

end Sys2Proof.Machine
end

