-- ==== Sys2Proof/Machine/Dispatch.lean ====
section
/-! DEFINITION. The meaning of each command: one arm for each constructor of `Instr`. -/

namespace Sys2Proof.Machine

def exec (i : Instr) (s : State) : Host.Outcome State Fault Refusal :=
  match i with
  | .nop => Sys2Proof.Machine.execNop s
  | .keySet => Sys2Proof.Machine.execKeySet s
  | .ksched => Sys2Proof.Machine.execKsched s
  | .encb => Sys2Proof.Machine.execEncb s
  | .decb => Sys2Proof.Machine.execDecb s
  | .encHex => Sys2Proof.Machine.execEncHex s
  | .encHexSep => Sys2Proof.Machine.execEncHexSep s
  | .encB64 => Sys2Proof.Machine.execEncB64 s
  | .encRaw => Sys2Proof.Machine.execEncRaw s
  | .decAuto => Sys2Proof.Machine.execDecAuto s
  | .decAutoNostrip => Sys2Proof.Machine.execDecAutoNostrip s
  | .decBytes => Sys2Proof.Machine.execDecBytes s
  | .decBytesNostrip => Sys2Proof.Machine.execDecBytesNostrip s
  | .detect => Sys2Proof.Machine.execDetect s
  | .hexEnc => Sys2Proof.Machine.execHexEnc s
  | .hexEncSep => Sys2Proof.Machine.execHexEncSep s
  | .hexDec => Sys2Proof.Machine.execHexDec s
  | .b64Enc => Sys2Proof.Machine.execB64Enc s
  | .b64Dec => Sys2Proof.Machine.execB64Dec s

end Sys2Proof.Machine
end

