-- ==== Sys2Proof/Machine/HostPort.lean ====
section
/-! DEFINITION. The host's accesses to the window (20_memory.md R52 to R57). -/

namespace Sys2Proof.Machine

/-- The accesses R52 leaves unspecified and 93_implementation_defined.md U1 has a model refuse (log 8). -/
def accessRefusal (width : Width) (off : Nat) : Option Refusal :=
  if width ≠ .word then some .accessWidth
  else if off % 4 ≠ 0 then some .misalignedOffset
  else if 0x3000 ≤ off then some .offsetOutsideWindow
  else none

/-- A word write (R56, R57): while BUSY = 1 only CTRL and STATUS act, and any other write sets ACCERR. -/
def hostWrite (s : State) (off : Nat) (v : Word) : State :=
  let r := regOf off
  if s.busy && !r.writableWhileBusy then s.markAccErr else s.writeReg r v

/-- Whether a word read returns an unspecified value (R57). -/
def readsDraw (s : State) (off : Nat) : Bool := s.busy && !(regOf off).readableWhileBusy

/-- What a word read returns (R55, R57): a draw where `readsDraw`. -/
def readData (s : State) (off : Nat) : Word :=
  if readsDraw s off then Config.busyRead s.draws else s.readReg (regOf off)

/-- A word read: it changes nothing of the block (R55); the host gets the data (log 11), and a draw is used up
(log 7). -/
def hostRead (s : State) (off : Nat) : State :=
  { s with
    hostReads := (off, readData s off) :: s.hostReads
    draws := if readsDraw s off then s.draws + 1 else s.draws }

/-- `RD OUT+4k` for k = 0 .. ceil(n/4)-1 (30_encoding.md R79). -/
def outReads (n : Nat) : List Event :=
  (List.range ((n + 3) / 4)).map fun k => .host (.rd .word (0x2000 + 4 * k))

/-- A `WR` (R78). -/
def hostWr (s : State) (width : Width) (off : Nat) (v : Word) : Result :=
  match accessRefusal width off with
  | some r => .refused r
  | none => .next (hostWrite s off v)

/-- An `RD` (R78). -/
def hostRd (s : State) (width : Width) (off : Nat) : Result :=
  match accessRefusal width off with
  | some r => .refused r
  | none => .next (hostRead s off)

/-- `RDOUT` (R79): `RD OUTLEN -> n`, and then the reads of the output words are next. -/
def hostRdout (s : State) : Result :=
  let t := hostRead s 0x014
  .next { t with schedule := outReads (readData s 0x014).toNat ++ t.schedule }

end Sys2Proof.Machine
end

