-- ==== Sys2Proof/Machine/Engine.lean ====
section
/-! DEFINITION. The command engine's completion (44_control.md R202) and what each event of the schedule does. -/

namespace Sys2Proof.Machine

/-- The engine takes its turn: it completes the pending command, or does nothing when there is none (60_exceptions.md
R216: "A completion cannot occur while no command is pending"). A word that is no command raises ILLEGAL_CMD (R201). -/
def complete (s : State) : Result :=
  match s.pending with
  | none => .next s
  | some p =>
    match decode p.cmd with
    | .ok i => exec i s
    | .error _ => .next (s.raise .illegalCmd .none)

/-- What is left of the schedule once its first event has been taken. -/
def State.advance (s : State) (rest : List Event) : State := { s with schedule := rest }

/-- The host's next operation (30_encoding.md R78, R79). `POLL` and `WAITIRQ` wait: while BUSY = 1 the engine moves
first, and a `WAITIRQ` with IRQ = 0 and no pending command waits for ever (log 11). -/
def hostStep (s : State) (rest : List Event) : HostOp → Result
  | .wr width off v => hostWr (s.advance rest) width off v
  | .rd width off => hostRd (s.advance rest) width off
  | .poll => if s.busy then complete s else .next (hostRead (s.advance rest) 0x008)
  | .waitIrq => if s.irq then .next (s.advance rest) else complete s
  | .rdout => hostRdout (s.advance rest)

/-- The next event. With nothing scheduled the engine moves, so a pending command completes (R202's weak fairness). -/
def nextEvent (s : State) : Result :=
  match s.schedule with
  | [] => complete s
  | .engine :: rest => complete (s.advance rest)
  | .powerOn :: rest => .next (s.advance rest).powerOnReset
  | .host op :: rest => hostStep s rest op

/-- The state in which a command word has just been accepted (R201) and the engine moves next (log 1). -/
def acceptThenRun (s : State) (w : Word) : State := (s.accept w).advance (.engine :: s.schedule)

end Sys2Proof.Machine
end

