-- ==== Sys2Proof/Machine/Step.lean ====
section
/-! DEFINITION. One step of the block, and the placing of a command where the next step runs it. -/

namespace Sys2Proof.Machine

/-- One step: the next event of the schedule. -/
def step (s : State) : Host.Outcome State Fault Refusal := nextEvent s

/-- The block fetches nothing (10_state.md R37): a command reaches the engine by a host write to CMD. This is the state
right after that write (R201: accepted, inputs captured), with the engine to move next (log 1). -/
def State.withFetchWord (s : State) (nbits w : Nat) : State := acceptThenRun s (tableWord nbits w)

end Sys2Proof.Machine
end

