-- ==== Sys2Proof/Machine/HostSyntax.lean ====
section
/-! DEFINITION. The host notation of 30_encoding.md R77 to R79, as the events it stands for. -/

namespace Sys2Proof.Machine

/-- The mnemonics of R77. -/
def mnemonic : Instr → String
  | .nop => "NOP"
  | .keySet => "KEY_SET"
  | .ksched => "KSCHED"
  | .encb => "ENCB"
  | .decb => "DECB"
  | .encHex => "ENC.hex"
  | .encHexSep => "ENC.hex.sep"
  | .encB64 => "ENC.b64"
  | .encRaw => "ENC.raw"
  | .decAuto => "DEC.auto"
  | .decAutoNostrip => "DEC.auto.nostrip"
  | .decBytes => "DEC.bytes"
  | .decBytesNostrip => "DEC.bytes.nostrip"
  | .detect => "DETECT"
  | .hexEnc => "HEX_ENC"
  | .hexEncSep => "HEX_ENC.sep"
  | .hexDec => "HEX_DEC"
  | .b64Enc => "B64_ENC"
  | .b64Dec => "B64_DEC"

/-- A command as a host program writes it (R77): by its mnemonic, by the short names `ENC` and `DEC`, or as a raw
word `CMD 0x...`. -/
inductive Command where
  | named (i : Instr)
  | enc
  | dec
  | raw (w : Word)
  deriving DecidableEq, Repr

/-- The word a command is written as (R77: "`ENC` alone means `ENC.hex`. `DEC` alone means `DEC.auto`"). -/
def commandWord : Command → Word
  | .named i => encode i
  | .enc => encode .encHex
  | .dec => encode .decAuto
  | .raw w => w

/-- `WR off, v` (R78). -/
def wr (off : Nat) (v : Word) : Event := .host (.wr .word off v)

/-- `RD off` (R78). -/
def rd (off : Nat) : Event := .host (.rd .word off)

/-- A command: `WR CMD, <word>` (R77). -/
def issue (c : Command) : Event := wr 0x00C (commandWord c)

/-- `LDIN b` (R79): the bytes of `b` into IN_BUF, zero bytes past its end, then INLEN. -/
def ldin (b : List Byte) : List Event :=
  ((List.range ((b.length + 3) / 4)).map fun k =>
    wr (0x1000 + 4 * k)
      (le32 (b.getD (4 * k) 0) (b.getD (4 * k + 1) 0) (b.getD (4 * k + 2) 0) (b.getD (4 * k + 3) 0)))
    ++ [wr 0x010 (BitVec.ofNat 32 b.length)]

/-- `RUN <cmd>` (R79). -/
def run (c : Command) : List Event := [issue c, .host .poll]

/-- `SETKEY b` (R79). -/
def setKey (b : List Byte) : List Event := ldin b ++ run (.named .keySet)

/-- `CLRDONE` (R79). -/
def clrDone : Event := wr 0x008 0x00000002

/-- `CLRACC` (R79). -/
def clrAcc : Event := wr 0x008 0x00000020

end Sys2Proof.Machine
end

