-- ==== Sys2Proof/Safety.lean ====
section
/-! DEFINITION. The terms in which statements speak of runs: what a command leaves unchanged, how it ended, what it
wrote to OUT_BUF, and the invariant of the block. -/

namespace Sys2Proof.Machine

/-! ### What stays unchanged

The five predicates together cover every field of `State` but the completion fields (`Ended`). -/

/-- KEY and KEYVALID are unchanged. -/
def SameKey (s t : State) : Prop := t.key = s.key ∧ t.keyValid = s.keyValid

/-- S and SVALID are unchanged. -/
def SameTable (s t : State) : Prop := t.sTable = s.sTable ∧ t.sValid = s.sValid

/-- DATA_A and DATA_B are unchanged. -/
def SameData (s t : State) : Prop := t.dataA = s.dataA ∧ t.dataB = s.dataB

/-- OUTLEN and every byte of OUT_BUF are unchanged. -/
def SameOut (s t : State) : Prop := t.outlen = s.outlen ∧ ∀ a, t.outByte a = s.outByte a

/-- What no command writes: INLEN, every byte of IN_BUF, CTRL.IE, STATUS.ACCERR, the parameters, and what is the
host's and the model's own. -/
def SameSetup (s t : State) : Prop :=
  t.inlen = s.inlen ∧ (∀ a, t.inByte a = s.inByte a) ∧ t.ie = s.ie ∧ t.accErr = s.accErr ∧ t.cfg = s.cfg
    ∧ t.schedule = s.schedule ∧ t.hostReads = s.hostReads ∧ t.draws = s.draws ∧ t.powerCycle = s.powerCycle

/-- Everything but the completion fields is unchanged (44_control.md R204). -/
def SameExceptStatus (s t : State) : Prop :=
  SameKey s t ∧ SameTable s t ∧ SameData s t ∧ SameOut s t ∧ SameSetup s t

/-! ### How a command ended -/

/-- The completion fields (R202): BUSY = 0, DONE = 1, ERR, FMT and TEXT_OK as given. -/
def Ended (t : State) (e : ErrCode) (f : Fmt) (text : Bool) : Prop :=
  t.pending = none ∧ t.busy = false ∧ t.done = true ∧ t.err = e ∧ t.fmt = f ∧ t.textOk = text

/-- `raise E` (60_exceptions.md R210): the command ended with an error and changed nothing else. -/
def Raised (r : Result) (s : State) (e : ErrCode) (f : Fmt) : Prop :=
  ∃ t, r = .next t ∧ Ended t e f false ∧ SameExceptStatus s t

/-- OUT_BUF[0..OUTLEN) is `o`, and every byte beyond is unchanged (10_state.md R27, R29). -/
def WroteOut (s t : State) (o : List Byte) : Prop :=
  t.outlen = BitVec.ofNat 32 o.length ∧ (∀ a, a < o.length → t.outByte a = o.getD a 0)
    ∧ ∀ a, o.length ≤ a → t.outByte a = s.outByte a

/-- S holds `k`, and SVALID = 1. -/
def WroteTable (t : State) (k : RoundKeys) : Prop := t.sTable = k ∧ t.sValid = true

/-! ### The input of a command -/

/-- Byte `a` of the captured IN_BUF. -/
def State.operandByte (s : State) (a : Nat) : Byte := s.operands.inBuf.byteAt .inBuf s.powerCycle a

/-- INLEN of the pending command, as a number. -/
def State.inputLen (s : State) : Nat := s.operands.inlen.toNat

/-- The whole valid input `IN_BUF[0..INLEN)` of the pending command. -/
def State.message (s : State) : List Byte := s.inputBytes s.inputLen

/-! ### The error conditions of R213 -/

/-- The commands that raise NO_KEY when KEYVALID = 0 (60_exceptions.md R211). -/
def needsKey : List Instr :=
  [.ksched, .encHex, .encHexSep, .encB64, .encRaw, .decAuto, .decAutoNostrip, .decBytes, .decBytesNostrip]

/-- The commands that raise NO_KEY when SVALID = 0 (R211). -/
def needsTable : List Instr := [.encb, .decb]

/-- The commands that read IN_BUF (R211). -/
def readsInput : List Instr :=
  [.keySet, .encHex, .encHexSep, .encB64, .encRaw, .decAuto, .decAutoNostrip, .decBytes, .decBytesNostrip, .detect,
    .hexEnc, .hexEncSep, .hexDec, .b64Enc, .b64Dec]

/-- The DEC commands with IFMT = 0. -/
def autoDecs : List Instr := [.decAuto, .decAutoNostrip]

/-- The DEC commands. -/
def decs : List Instr := [.decAuto, .decAutoNostrip, .decBytes, .decBytesNostrip]

/-- The output-producing commands (10_state.md R27). -/
def producesOutput : List Instr :=
  [.encHex, .encHexSep, .encB64, .encRaw, .decAuto, .decAutoNostrip, .decBytes, .decBytesNostrip, .hexEnc, .hexEncSep,
    .hexDec, .b64Enc, .b64Dec]

/-- The commands that write the round-key table (R24). -/
def writesTable : List Instr := needsKey

/-- Two states agree on every value that a command reads (42_message_transform.md R150; the `Operands` lines of R105,
R106, R126, R127, R145, R146 and R180 to R184): of IN_BUF only the bytes below INLEN, and for KEY_SET only the first 16 of
them. -/
def SameReads (i : Instr) (s s' : State) : Prop :=
  s.cfg = s'.cfg
    ∧ (i ∈ needsKey → s.operands.keyValid = s'.operands.keyValid ∧ s.operands.key = s'.operands.key)
    ∧ (i ∈ needsTable → s.operands.sValid = s'.operands.sValid ∧ s.operands.sTable = s'.operands.sTable
        ∧ s.operands.dataA = s'.operands.dataA ∧ s.operands.dataB = s'.operands.dataB)
    ∧ (i ∈ readsInput → s.operands.inlen = s'.operands.inlen
        ∧ ∀ a, a < s.inputLen → (i = .keySet → a < 16) → s.operandByte a = s'.operandByte a)

/-- The output of an ENC with the given format on the captured message (42_message_transform.md R145). -/
def State.encText (s : State) (f : OutFmt) : List Byte :=
  encodeOutput f (encBytes s.cfg.blockOrder (keySchedule s.cfg.p s.cfg.q s.operands.key) (pad s.message))

/-- The format result of a DEC, and its ciphertext after decoding (R146). -/
def State.decSource (s : State) (auto : Bool) : Fmt × List Byte :=
  if auto then (detectFmt s.message, decodeInput (detectFmt s.message) s.message) else (.none, s.message)

/-- The plaintext of a DEC (R146). -/
def State.decText (s : State) (auto nostrip : Bool) : List Byte :=
  let p := decBytes s.cfg.blockOrder (keySchedule s.cfg.p s.cfg.q s.operands.key) (s.decSource auto).2
  if nostrip then p else unpad p

/-- The length of the output that R211 checks against BUF_BYTES. -/
def State.encodedLength (s : State) : Instr → Nat
  | .encHex => (s.encText (.hex false)).length
  | .encHexSep => (s.encText (.hex true)).length
  | .encB64 => (s.encText .base64).length
  | .encRaw => (s.encText .raw).length
  | .hexEnc => (hexEncode false s.message).length
  | .hexEncSep => (hexEncode true s.message).length
  | .b64Enc => (b64Encode s.message).length
  | .nop => 0
  | .keySet => 0
  | .ksched => 0
  | .encb => 0
  | .decb => 0
  | .decAuto => 0
  | .decAutoNostrip => 0
  | .decBytes => 0
  | .decBytesNostrip => 0
  | .detect => 0
  | .hexDec => 0
  | .b64Dec => 0

/-- The input of a DEC.auto, of HEX_DEC or of B64_DEC is of no format the command takes (R211). -/
def State.formatError (s : State) (i : Instr) : Bool :=
  (decide (i ∈ autoDecs) && decide (detectFmt s.message = .raw)) || (decide (i = .hexDec) && !isHex (strip s.message))
    || (decide (i = .b64Dec) && !b64Valid (strip s.message))

/-- The error conditions of a legal command, in the order of R213, items 2 to 6. -/
def State.errorConditions (s : State) (i : Instr) : List (Bool × ErrCode) :=
  [((decide (i ∈ needsKey) && !s.operands.keyValid) || (decide (i ∈ needsTable) && !s.operands.sValid), .noKey),
    (decide (i ∈ readsInput) && decide (s.cfg.bufBytes < s.inputLen), .overflow),
    (s.formatError i, .unsupportedFormat),
    (decide (i ∈ decs) && decide ((s.decSource (decide (i ∈ autoDecs))).2.length % 8 ≠ 0), .invalidLength),
    (decide (s.cfg.bufBytes < s.encodedLength i), .overflow)]

/-- The first condition that holds decides; with none, OK. -/
def firstError (conds : List (Bool × ErrCode)) : ErrCode :=
  match conds.find? fun c => c.1 with
  | some c => c.2
  | none => .ok

/-! ### The tables of characters, as the spec lists them

The codec (Machine/Codec.lean) and the text check (Machine/Message.lean) compute with ranges. These are the spec's lists,
for statements that hold the two against each other. -/

/-- The whitespace bytes of 43_format_helpers.md R170. -/
def whitespaceBytes : List Byte := [0x09, 0x0A, 0x0B, 0x0C, 0x0D, 0x20]

/-- `n` bytes in a row, from `first` on. -/
def byteRow (first n : Nat) : List Byte := (List.range' first n).map (BitVec.ofNat 8)

/-- The digits of R171 in the order of their values, '0' to '9' and 'a' to 'f' (R172's "0123456789abcdef"). -/
def lowerHexDigits : List Byte := byteRow 0x30 10 ++ byteRow 0x61 6

/-- The digits of R171 in the order of their values, '0' to '9' and 'A' to 'F'. -/
def upperHexDigits : List Byte := byteRow 0x30 10 ++ byteRow 0x41 6

/-- The 64 characters of R175 in the order of their values (G3; log 10). -/
def b64Alphabet : List Byte := byteRow 0x41 26 ++ byteRow 0x61 26 ++ byteRow 0x30 10 ++ [0x2B, 0x2F]

/-- R153's table of well-formed UTF-8 (G4; log 10): the first and the last code point of a row, and the range of each of
its bytes. -/
def utf8Table : List (Nat × Nat × List (Nat × Nat)) :=
  [(0x0000, 0x007F, [(0x00, 0x7F)]),
    (0x0080, 0x07FF, [(0xC2, 0xDF), (0x80, 0xBF)]),
    (0x0800, 0x0FFF, [(0xE0, 0xE0), (0xA0, 0xBF), (0x80, 0xBF)]),
    (0x1000, 0xCFFF, [(0xE1, 0xEC), (0x80, 0xBF), (0x80, 0xBF)]),
    (0xD000, 0xD7FF, [(0xED, 0xED), (0x80, 0x9F), (0x80, 0xBF)]),
    (0xE000, 0xFFFF, [(0xEE, 0xEF), (0x80, 0xBF), (0x80, 0xBF)]),
    (0x10000, 0x3FFFF, [(0xF0, 0xF0), (0x90, 0xBF), (0x80, 0xBF), (0x80, 0xBF)]),
    (0x40000, 0xFFFFF, [(0xF1, 0xF3), (0x80, 0xBF), (0x80, 0xBF), (0x80, 0xBF)]),
    (0x100000, 0x10FFFF, [(0xF4, 0xF4), (0x80, 0x8F), (0x80, 0xBF), (0x80, 0xBF)])]

/-- A byte sequence stands in a row: as many bytes as the row has ranges, each in its range. -/
def InUtf8Row (row : Nat × Nat × List (Nat × Nat)) (q : List Byte) : Prop :=
  List.Forall₂ (fun range v => range.1 ≤ v.toNat ∧ v.toNat ≤ range.2) row.2.2 q

/-- The characters that R153, 2 rejects, as their byte sequences: U+FFFD is EF BF BD, U+0080 to U+009F are C2 80 to
C2 9F, and the others are single bytes. -/
def rejectedSequences : List (List Byte) :=
  [[0xEF, 0xBF, 0xBD]] ++ (byteRow 0x80 32).map (fun v => [0xC2, v])
    ++ (byteRow 0x00 9 ++ [0x0B, 0x0C] ++ byteRow 0x0E 18 ++ [0x7F]).map (fun v => [v])

/-! ### Safe runs -/

/-- `n` steps, as `Host.Core.run` makes them. -/
def runSteps : Nat → State → Result
  | 0, s => .next s
  | n + 1, s =>
    match step s with
    | .next t => runSteps n t
    | .fault r => .fault r
    | .refused r => .refused r

/-- An access that 20_memory.md R52 defines. -/
def definedAccess (width : Width) (off : Nat) : Prop := width = .word ∧ off % 4 = 0 ∧ off < 0x3000

/-- A host operation that no step refuses. -/
def HostOp.defined : HostOp → Prop
  | .wr width off _ => definedAccess width off
  | .rd width off => definedAccess width off
  | .poll => True
  | .waitIrq => True
  | .rdout => True

/-- An event that takes one step and that no step refuses. -/
def Event.oneStep : Event → Prop
  | .host (.wr width off _) => definedAccess width off
  | .host (.rd width off) => definedAccess width off
  | .host .poll => False
  | .host .waitIrq => False
  | .host .rdout => False
  | .engine => True
  | .powerOn => True

/-- The buffers are in canonical form and inside BUF_BYTES; OUTLEN does not exceed BUF_BYTES. -/
def State.BuffersWf (s : State) : Prop :=
  s.inBuf.wf = true ∧ s.outBuf.wf = true ∧ s.inBuf.below s.cfg.bufBytes = true
    ∧ s.outBuf.below s.cfg.bufBytes = true ∧ s.outlen.toNat ≤ s.cfg.bufBytes

/-- 10_state.md R25: SVALID is 1 only when S holds KS(K) for the current, valid KEY. -/
def State.TableValid (s : State) : Prop :=
  s.sValid = true → s.keyValid = true ∧ s.sTable = keySchedule s.cfg.p s.cfg.q s.key

/-- R31: TEXT_OK is 1 only after a DEC that ended with ERR = OK. -/
def State.TextOkValid (s : State) : Prop := s.textOk = true → s.err = .ok ∧ s.sValid = true

/-- R38, 44_control.md R201: while BUSY = 1 the captured inputs are the current values, and DONE, ERR, FMT and TEXT_OK
are clear. -/
def State.PendingCurrent (s : State) : Prop :=
  ∀ p, s.pending = some p →
    p.inputs = s.snapshot ∧ s.done = false ∧ s.err = .ok ∧ s.fmt = .none ∧ s.textOk = false

/-- The invariant of the block. -/
def State.Inv (s : State) : Prop :=
  s.cfg.wf = true ∧ s.BuffersWf ∧ s.TableValid ∧ s.TextOkValid ∧ s.PendingCurrent

end Sys2Proof.Machine
end

