-- ==== Sys2Proof/Certificates/Slice0/Obligations.lean ====
section
/-! DEFINITION. The statements about the block. `operands`, `inputLen`, `operandByte` and `message` (Safety.lean)
are the values that the pending command captured at acceptance (44_control.md R201), and the current ones where no
command is pending. The frame predicates of Safety.lean (`SameKey`, `SameTable`, `SameData`, `SameOut`, `SameSetup`,
`Ended`) name every field of the state between them. -/

open Sys2Proof Sys2Proof.Machine

/-! ### Encoding -/

/-- Words written out bit by bit from R70 and R72 decode to the commands they stand for. -/
def Obligations.SpecWordsDecode : Prop :=
  decode 0b00000000000000000000000000000000 = .ok .nop
  ∧ decode 0b00000000000000000000000000000001 = .ok .keySet
  ∧ decode 0b00000000000000000000000000000100 = .ok .decb
  ∧ decode 0b00000000000000000000000001000101 = .ok .encHexSep
  ∧ decode 0b00000000000000000000010100000110 = .ok .decBytesNostrip
  ∧ decode 0b00000000000000000000000000001010 = .ok .b64Enc
  ∧ decode 0b00000000000000000000000000110101 = .error .reservedOfmt

/-- Decoding the word, the bytes or the table row of a command gives it back, and a word that decodes to a command is
that command's one word (R74). -/
def Obligations.EncodeAndDecodeAgree : Prop :=
  (∀ i : Instr, i.wf = true →
    decode (encode i) = .ok i ∧ decodeBytes (encodeBytes i) = .ok i
      ∧ decodeTableWord 32 (encode i).toNat = some i)
  ∧ ∀ (w : Word) (i : Instr), decode w = .ok i → i.wf = true ∧ encode i = w

/-- R74, which the spec marks as its own inference ("[derived: from rule R70, rule R72 and rule R73]"): the legal
words are the 19 it lists, under the mnemonics it lists. -/
def Obligations.LegalWordsAreTheNineteen : Prop :=
  let named : List (String × Word) :=
    [("NOP", 0x000), ("KEY_SET", 0x001), ("KSCHED", 0x002), ("ENCB", 0x003), ("DECB", 0x004), ("ENC.hex", 0x005),
      ("ENC.hex.sep", 0x045), ("ENC.b64", 0x015), ("ENC.raw", 0x025), ("DEC.auto", 0x006),
      ("DEC.auto.nostrip", 0x406), ("DEC.bytes", 0x106), ("DEC.bytes.nostrip", 0x506), ("DETECT", 0x007),
      ("HEX_ENC", 0x008), ("HEX_ENC.sep", 0x048), ("HEX_DEC", 0x009), ("B64_ENC", 0x00A), ("B64_DEC", 0x00B)]
  named.length = 19 ∧ (named.map Prod.snd).Nodup
  ∧ (∀ i : Instr, (mnemonic i, encode i) ∈ named)
  ∧ (∀ w : Word, (unpack w).legal = true ↔ w ∈ named.map Prod.snd)
  ∧ ∀ w : Word, (∃ i, decode w = .ok i) ↔ w ∈ named.map Prod.snd

/-- R73: the list of conditions, the match-and-mask table and the decoder accept the same words. -/
def Obligations.LegalityByFieldsMasksAndDecoder : Prop :=
  ∀ w : Word, maskLegal w = (unpack w).legal ∧ ((∃ i, decode w = .ok i) ↔ maskLegal w = true)

/-- R70: the fields tile the word, none overlaps another and no bit is dropped. -/
def Obligations.FieldsTileTheWord : Prop :=
  (∀ w : Word, pack (unpack w) = w) ∧ ∀ f : CmdFields, unpack (pack f) = f

/-! ### Steps, acceptance and completion -/

/-- A step of the engine runs the command that was accepted (R202). WHEN the engine moves is the model's choice: with
nothing scheduled and with an engine turn to come, where the schedule has then moved on, by log 1; while the host
polls or waits for IRQ, where that operation stays next, by log 11. -/
def Obligations.StepRunsThePendingCommand : Prop :=
  ∀ (s : State) (p : Pending) (i : Instr) (rest : List Event), s.pending = some p → decode p.cmd = .ok i →
    (s.schedule = [] → step s = exec i s)
    ∧ (s.schedule = .engine :: rest → step s = exec i { s with schedule := rest })
    ∧ (s.schedule = .host .poll :: rest → step s = exec i s)
    ∧ (s.schedule = .host .waitIrq :: rest → s.irq = false → step s = exec i s)

/-- The model's choice (log 1): placing a command word makes the very next step run it, on the current values. -/
def Obligations.FetchedWordRunsAtOnce : Prop :=
  ∀ (s : State) (i : Instr),
    step (s.withFetchWord 32 (encode i).toNat) = exec i (s.accept (encode i))
    ∧ (s.accept (encode i)).operands = s.snapshot

/-- R201: a CMD write while BUSY = 0 is accepted in one step, with the fields it clears and the inputs it captures;
the accepted word is completed as its command, or as ILLEGAL_CMD; a CMD write while BUSY = 1 only sets ACCERR. -/
def Obligations.CommandIssue : Prop :=
  ∀ (s : State) (w : Word) (rest : List Event), s.schedule = .host (.wr .word 0x00C w) :: rest →
    (s.busy = false → ∃ (t : State) (p : Pending), step s = .next t ∧ t.busy = true ∧ t.done = false ∧ t.err = .ok
      ∧ t.fmt = .none ∧ t.textOk = false ∧ t.irq = false ∧ t.pending = some p ∧ p.cmd = w
      ∧ p.inputs.key = s.key ∧ p.inputs.keyValid = s.keyValid ∧ p.inputs.sTable = s.sTable
      ∧ p.inputs.sValid = s.sValid ∧ p.inputs.inlen = s.inlen ∧ p.inputs.inBuf = s.inBuf
      ∧ p.inputs.dataA = s.dataA ∧ p.inputs.dataB = s.dataB
      ∧ SameExceptStatus { s with schedule := rest } t
      ∧ (∀ i, decode w = .ok i → complete t = exec i t)
      ∧ ((unpack w).legal = false → Raised (complete t) t .illegalCmd .none))
    ∧ (s.busy = true → step s = .next { s with schedule := rest, accErr := true })

/-- R75 and R73: the completion of a pending word that is not legal, in particular of one with a reserved encoding,
raises ILLEGAL_CMD and changes nothing else, whatever is scheduled. -/
def Obligations.IllegalWordsOnlyReportIllegalCmd : Prop :=
  ∀ (s : State) (p : Pending), s.pending = some p →
    ((unpack p.cmd).legal = false → Raised (complete s) s .illegalCmd .none)
    ∧ (0xC ≤ (unpack p.cmd).op.toNat ∨ (unpack p.cmd).ofmt = 3 ∨ 2 ≤ (unpack p.cmd).ifmt.toNat
        ∨ (unpack p.cmd).bit7 = true ∨ (unpack p.cmd).high ≠ 0 →
      Raised (complete s) s .illegalCmd .none)

/-- R202: exec of every command completes it, with BUSY = 0 and DONE = 1. That a busy block with nothing scheduled
completes its pending command in its very next step is the model's choice (log 1), its form of R202's fairness. -/
def Obligations.EveryPendingCommandCompletes : Prop :=
  (∀ (i : Instr) (s : State), ∃ t, exec i s = .next t ∧ t.pending = none ∧ t.busy = false ∧ t.done = true)
  ∧ ∀ s : State, s.busy = true → s.schedule = [] → ∃ t, step s = .next t ∧ t.busy = false ∧ t.done = true

/-- R204: a command, legal or not, that ends with an error changes nothing but the completion fields. -/
def Obligations.FailingCommandChangesOnlyStatus : Prop :=
  (∀ (i : Instr) (s t : State), exec i s = .next t → t.err ≠ .ok → SameExceptStatus s t)
  ∧ ∀ s t : State, s.busy = true → complete s = .next t → t.err ≠ .ok → SameExceptStatus s t

/-- R213: the error a command reports is the first that holds in the order ILLEGAL_CMD, NO_KEY, OVERFLOW of the input,
UNSUPPORTED_FORMAT, INVALID_LENGTH, OVERFLOW of the output; with none, OK. -/
def Obligations.FirstErrorIsReported : Prop :=
  (∀ (i : Instr) (s : State), ∃ t, exec i s = .next t ∧ t.err = firstError (s.errorConditions i))
  ∧ ∀ (s : State) (p : Pending), s.pending = some p → (unpack p.cmd).legal = false →
      ∃ t, complete s = .next t ∧ t.err = .illegalCmd

/-- 10_state.md R21 to R29: which commands may write KEY, S, DATA_A and DATA_B, OUT_BUF and OUTLEN; none writes the
rest. -/
def Obligations.CommandsWriteOnlyTheirOwnState : Prop :=
  ∀ (i : Instr) (s t : State), exec i s = .next t →
    (i ≠ .keySet → SameKey s t)
    ∧ (i ≠ .keySet → i ∉ writesTable → SameTable s t)
    ∧ t.sTable = (if i ∈ writesTable ∧ t.err = .ok then keySchedule s.cfg.p s.cfg.q s.operands.key else s.sTable)
    ∧ (i ≠ .encb → i ≠ .decb → SameData s t)
    ∧ (i ∉ producesOutput → SameOut s t)
    ∧ (∀ a, t.outlen.toNat ≤ a → t.err = .ok → s.cfg.wf = true → i ∈ producesOutput → t.outByte a = s.outByte a)
    ∧ SameSetup s t

/-- R22, R24: from one state to the next, KEY changes only by a pending KEY_SET, a soft reset or a power-on reset, and
S only by a pending KSCHED, ENC or DEC or a power-on reset. -/
def Obligations.KeyAndTableChangeOnlyByTheirCommandsAndResets : Prop :=
  ∀ s t : State, step s = .next t →
    (t.key ≠ s.key →
      (∃ p, s.pending = some p ∧ p.cmd = 0x001)
      ∨ (∃ v rest, s.schedule = .host (.wr .word 0x004 v) :: rest ∧ v.getLsbD 1 = true)
      ∨ (∃ rest, s.schedule = .powerOn :: rest))
    ∧ (t.sTable ≠ s.sTable →
      (∃ p i, s.pending = some p ∧ decode p.cmd = .ok i ∧ i ∈ writesTable)
      ∨ (∃ rest, s.schedule = .powerOn :: rest))

/-- R150: a command's result is a function of the values it reads (`SameReads`, Safety.lean) and of which command it
is: two states that agree on them end it with the same STATUS fields, and each element a command can write is kept in
both or written with the same value in both. Two ENC runs with the same KEY, INLEN and input bytes write the same
bytes and the same OUTLEN, whatever else the states hold. -/
def Obligations.SameInputsGiveTheSameResult : Prop :=
  (∀ (i : Instr) (s s' : State), SameReads i s s' →
    ∃ t t', exec i s = .next t ∧ exec i s' = .next t'
      ∧ t.err = t'.err ∧ t.fmt = t'.fmt ∧ t.textOk = t'.textOk ∧ t.done = t'.done ∧ t.busy = t'.busy
      ∧ (SameKey s t ∧ SameKey s' t' ∨ t.key = t'.key ∧ t.keyValid = t'.keyValid)
      ∧ (SameTable s t ∧ SameTable s' t'
        ∨ (t.sTable = s.sTable ∧ t'.sTable = s'.sTable ∨ t.sTable = t'.sTable) ∧ t.sValid = t'.sValid)
      ∧ (SameData s t ∧ SameData s' t' ∨ t.dataA = t'.dataA ∧ t.dataB = t'.dataB)
      ∧ (SameOut s t ∧ SameOut s' t' ∨ t.outlen = t'.outlen ∧ ∃ o, WroteOut s t o ∧ WroteOut s' t' o)
      ∧ SameSetup s t ∧ SameSetup s' t')
  ∧ ∀ (i : Instr) (s s' : State), i ∈ [Instr.encHex, .encHexSep, .encB64, .encRaw] → s.cfg = s'.cfg →
      s.operands.key = s'.operands.key → s.operands.keyValid = s'.operands.keyValid →
      s.operands.inlen = s'.operands.inlen → (∀ a, a < s.inputLen → s.operandByte a = s'.operandByte a) →
      ∃ t t', exec i s = .next t ∧ exec i s' = .next t' ∧ t.err = t'.err
        ∧ (t.err = .ok → t.outlen = t'.outlen ∧ t.sTable = t'.sTable ∧ t.sValid = t'.sValid
          ∧ ∃ o, WroteOut s t o ∧ WroteOut s' t' o)

/-! ### The commands -/

/-- R203: NOP, the word 0, writes the completion fields only; any other word with OP = 0 is illegal and completes with
ILLEGAL_CMD. -/
def Obligations.NopOnlyCompletes : Prop :=
  decode 0x000 = .ok .nop
  ∧ (∀ s : State, ∃ t, exec .nop s = .next t ∧ Ended t .ok .none false ∧ SameExceptStatus s t)
  ∧ (∀ w : Word, (unpack w).op = 0 → ((∃ i, decode w = .ok i) ↔ w = 0))
  ∧ ∀ (s : State) (p : Pending), s.pending = some p → (unpack p.cmd).op = 0 → p.cmd ≠ 0 →
      Raised (complete s) s .illegalCmd .none

/-- R105: KEY_SET loads `IN_BUF[0..min(INLEN,16))`, padded with zero bytes, sets KEYVALID and clears SVALID; with
INLEN > BUF_BYTES it raises OVERFLOW. -/
def Obligations.KeySetLoadsTheNormalizedKey : Prop :=
  decode 0x001 = .ok .keySet ∧
  ∀ s : State,
    (s.inputLen ≤ s.cfg.bufBytes → ∃ t, exec .keySet s = .next t ∧ Ended t .ok .none false
      ∧ (∀ i : Fin 16, t.key[i] = if i.val < s.inputLen then s.operandByte i.val else 0)
      ∧ t.keyValid = true ∧ t.sValid = false ∧ t.sTable = s.sTable
      ∧ SameData s t ∧ SameOut s t ∧ SameSetup s t)
    ∧ (s.cfg.bufBytes < s.inputLen → Raised (exec .keySet s) s .overflow .none)

/-- R106: KSCHED writes S <- KS(K) and SVALID <- 1, whatever INLEN is; without a key it raises NO_KEY. -/
def Obligations.KschedBuildsTheTable : Prop :=
  decode 0x002 = .ok .ksched ∧
  ∀ s : State,
    (s.operands.keyValid = true → ∃ t, exec .ksched s = .next t ∧ Ended t .ok .none false
      ∧ WroteTable t (keySchedule s.cfg.p s.cfg.q s.operands.key)
      ∧ SameKey s t ∧ SameData s t ∧ SameOut s t ∧ SameSetup s t)
    ∧ (s.operands.keyValid = false → Raised (exec .ksched s) s .noKey .none)

/-- R126: ENCB replaces DATA_A and DATA_B by EncBlock of them; without a table it raises NO_KEY. -/
def Obligations.EncbEncryptsTheBlock : Prop :=
  decode 0x003 = .ok .encb ∧
  ∀ s : State,
    (s.operands.sValid = true → ∃ t, exec .encb s = .next t ∧ Ended t .ok .none false
      ∧ (t.dataA, t.dataB) = encBlock s.operands.sTable (s.operands.dataA, s.operands.dataB)
      ∧ SameKey s t ∧ SameTable s t ∧ SameOut s t ∧ SameSetup s t)
    ∧ (s.operands.sValid = false → Raised (exec .encb s) s .noKey .none)

/-- R127: DECB replaces DATA_A and DATA_B by DecBlock of them, their preimage under EncBlock; without a table it
raises NO_KEY. -/
def Obligations.DecbDecryptsTheBlock : Prop :=
  decode 0x004 = .ok .decb ∧
  ∀ s : State,
    (s.operands.sValid = true → ∃ t, exec .decb s = .next t ∧ Ended t .ok .none false
      ∧ (t.dataA, t.dataB) = decBlock s.operands.sTable (s.operands.dataA, s.operands.dataB)
      ∧ encBlock s.operands.sTable (t.dataA, t.dataB) = (s.operands.dataA, s.operands.dataB)
      ∧ SameKey s t ∧ SameTable s t ∧ SameOut s t ∧ SameSetup s t)
    ∧ (s.operands.sValid = false → Raised (exec .decb s) s .noKey .none)

/-- R145: the four forms of ENC write the encoded ciphertext of the padded message under a fresh table, and the table;
NO_KEY, OVERFLOW of the input and OVERFLOW of the output, in that order. -/
def Obligations.EncWritesTheEncodedCiphertext : Prop :=
  decode 0x005 = .ok .encHex ∧ decode 0x045 = .ok .encHexSep ∧ decode 0x015 = .ok .encB64 ∧ decode 0x025 = .ok .encRaw ∧
  ∀ (i : Instr) (f : OutFmt) (s : State),
    (i, f) ∈ [(Instr.encHex, OutFmt.hex false), (.encHexSep, .hex true), (.encB64, .base64), (.encRaw, .raw)] →
    (s.operands.keyValid = false → Raised (exec i s) s .noKey .none)
    ∧ (s.operands.keyValid = true → s.cfg.bufBytes < s.inputLen → Raised (exec i s) s .overflow .none)
    ∧ (s.operands.keyValid = true → s.inputLen ≤ s.cfg.bufBytes → s.cfg.bufBytes < (s.encText f).length →
      Raised (exec i s) s .overflow .none)
    ∧ (s.operands.keyValid = true → s.inputLen ≤ s.cfg.bufBytes → (s.encText f).length ≤ s.cfg.bufBytes →
      ∃ t, exec i s = .next t ∧ Ended t .ok .none false ∧ WroteOut s t (s.encText f)
        ∧ WroteTable t (keySchedule s.cfg.p s.cfg.q s.operands.key)
        ∧ SameKey s t ∧ SameData s t ∧ SameSetup s t)

/-- R146: the four forms of DEC: NO_KEY, OVERFLOW, UNSUPPORTED_FORMAT with FMT = RAW, INVALID_LENGTH with the format
found, in that order; otherwise the plaintext, unpadded unless NOSTRIP, with the format and TEXT_OK. -/
def Obligations.DecWritesThePlaintext : Prop :=
  decode 0x006 = .ok .decAuto ∧ decode 0x406 = .ok .decAutoNostrip ∧ decode 0x106 = .ok .decBytes
    ∧ decode 0x506 = .ok .decBytesNostrip ∧
  ∀ (i : Instr) (auto nostrip : Bool) (s : State),
    (i, auto, nostrip) ∈ [(Instr.decAuto, true, false), (.decAutoNostrip, true, true), (.decBytes, false, false),
      (.decBytesNostrip, false, true)] →
    (s.operands.keyValid = false → Raised (exec i s) s .noKey .none)
    ∧ (s.operands.keyValid = true → s.cfg.bufBytes < s.inputLen → Raised (exec i s) s .overflow .none)
    ∧ (s.operands.keyValid = true → s.inputLen ≤ s.cfg.bufBytes → (s.decSource auto).1 = .raw →
      Raised (exec i s) s .unsupportedFormat .raw)
    ∧ (s.operands.keyValid = true → s.inputLen ≤ s.cfg.bufBytes → (s.decSource auto).1 ≠ .raw →
      (s.decSource auto).2.length % 8 ≠ 0 → Raised (exec i s) s .invalidLength (s.decSource auto).1)
    ∧ (s.operands.keyValid = true → s.inputLen ≤ s.cfg.bufBytes → (s.decSource auto).1 ≠ .raw →
      (s.decSource auto).2.length % 8 = 0 →
      ∃ t, exec i s = .next t
        ∧ Ended t .ok (s.decSource auto).1 (textAccept s.cfg.textRule (s.decText auto nostrip))
        ∧ WroteOut s t (s.decText auto nostrip)
        ∧ WroteTable t (keySchedule s.cfg.p s.cfg.q s.operands.key)
        ∧ SameKey s t ∧ SameData s t ∧ SameSetup s t)

/-- R180: DETECT reports the class of the input in FMT, RAW too, and changes nothing else. -/
def Obligations.DetectReportsTheFormat : Prop :=
  decode 0x007 = .ok .detect ∧
  ∀ s : State,
    (s.inputLen ≤ s.cfg.bufBytes → ∃ t, exec .detect s = .next t ∧ Ended t .ok (detectFmt s.message) false
      ∧ SameExceptStatus s t)
    ∧ (s.cfg.bufBytes < s.inputLen → Raised (exec .detect s) s .overflow .none)

/-- R181: both forms of HEX_ENC. The output overflows when 2*INLEN, or 3*INLEN-1 with separator, exceeds BUF_BYTES. -/
def Obligations.HexEncWritesTheHexText : Prop :=
  decode 0x008 = .ok .hexEnc ∧ decode 0x048 = .ok .hexEncSep ∧
  ∀ (i : Instr) (sep : Bool) (s : State), (i, sep) ∈ [(Instr.hexEnc, false), (.hexEncSep, true)] →
    (s.cfg.bufBytes < s.inputLen → Raised (exec i s) s .overflow .none)
    ∧ (s.inputLen ≤ s.cfg.bufBytes → s.cfg.bufBytes < (if sep then 3 * s.inputLen - 1 else 2 * s.inputLen) →
      Raised (exec i s) s .overflow .none)
    ∧ (s.inputLen ≤ s.cfg.bufBytes → (if sep then 3 * s.inputLen - 1 else 2 * s.inputLen) ≤ s.cfg.bufBytes →
      ∃ t, exec i s = .next t ∧ Ended t .ok .none false ∧ WroteOut s t (hexEncode sep s.message)
        ∧ SameKey s t ∧ SameTable s t ∧ SameData s t ∧ SameSetup s t)

/-- R182: HEX_DEC. -/
def Obligations.HexDecWritesTheBytes : Prop :=
  decode 0x009 = .ok .hexDec ∧
  ∀ s : State,
    (s.cfg.bufBytes < s.inputLen → Raised (exec .hexDec s) s .overflow .none)
    ∧ (s.inputLen ≤ s.cfg.bufBytes → isHex (strip s.message) = false →
      Raised (exec .hexDec s) s .unsupportedFormat .none)
    ∧ (s.inputLen ≤ s.cfg.bufBytes → isHex (strip s.message) = true →
      ∃ t, exec .hexDec s = .next t ∧ Ended t .ok .none false ∧ WroteOut s t (hexDecode (strip s.message))
        ∧ 2 * (hexDecode (strip s.message)).length = (strip s.message).length
        ∧ SameKey s t ∧ SameTable s t ∧ SameData s t ∧ SameSetup s t)

/-- R183: B64_ENC. The output overflows when 4*ceil(INLEN/3) exceeds BUF_BYTES. -/
def Obligations.B64EncWritesTheBase64Text : Prop :=
  decode 0x00A = .ok .b64Enc ∧
  ∀ s : State,
    (s.cfg.bufBytes < s.inputLen → Raised (exec .b64Enc s) s .overflow .none)
    ∧ (s.inputLen ≤ s.cfg.bufBytes → s.cfg.bufBytes < 4 * ((s.inputLen + 2) / 3) →
      Raised (exec .b64Enc s) s .overflow .none)
    ∧ (s.inputLen ≤ s.cfg.bufBytes → 4 * ((s.inputLen + 2) / 3) ≤ s.cfg.bufBytes →
      ∃ t, exec .b64Enc s = .next t ∧ Ended t .ok .none false ∧ WroteOut s t (b64Encode s.message)
        ∧ SameKey s t ∧ SameTable s t ∧ SameData s t ∧ SameSetup s t)

/-- R184: B64_DEC does not try hex first. -/
def Obligations.B64DecWritesTheBytes : Prop :=
  decode 0x00B = .ok .b64Dec ∧
  ∀ s : State,
    (s.cfg.bufBytes < s.inputLen → Raised (exec .b64Dec s) s .overflow .none)
    ∧ (s.inputLen ≤ s.cfg.bufBytes → b64Valid (strip s.message) = false →
      Raised (exec .b64Dec s) s .unsupportedFormat .none)
    ∧ (s.inputLen ≤ s.cfg.bufBytes → b64Valid (strip s.message) = true →
      ∃ t, exec .b64Dec s = .next t ∧ Ended t .ok .none false ∧ WroteOut s t (b64Decode (strip s.message))
        ∧ SameKey s t ∧ SameTable s t ∧ SameData s t ∧ SameSetup s t)

/-! ### The cipher -/

/-- R120, and R121, which the spec marks as derived from it: bit `i` of a word stands at `i + s` modulo 32 after ROTL
by `s`; ROTR undoes ROTL, and ROTL undoes ROTR. -/
def Obligations.RotationsAreCircularAndInverse : Prop :=
  ∀ (x : Word) (s : Nat),
    (∀ i, i < 32 → (rotl x s).getLsbD ((i + s) % 32) = x.getLsbD i)
    ∧ (∀ i, i < 32 → (rotr x s).getLsbD i = x.getLsbD ((i + s) % 32))
    ∧ rotr (rotl x s) s = x ∧ rotl (rotr x s) s = x

/-- R123: Words and Bytes are inverse bijections in both byte orders, and the first byte of a group is the least
significant one in LE, the most significant one in BE. -/
def Obligations.WordsAndBytesAreInverse : Prop :=
  (∀ (order : WordOrder) (ab : Word × Word), ∃ b0 b1 b2 b3 b4 b5 b6 b7 : Byte,
    blockBytes order ab = [b0, b1, b2, b3, b4, b5, b6, b7] ∧ blockWords order b0 b1 b2 b3 b4 b5 b6 b7 = ab)
  ∧ ∀ b0 b1 b2 b3 b4 b5 b6 b7 : Byte,
      (∀ order, blockBytes order (blockWords order b0 b1 b2 b3 b4 b5 b6 b7) = [b0, b1, b2, b3, b4, b5, b6, b7])
      ∧ (blockWords .le b0 b1 b2 b3 b4 b5 b6 b7).1.toNat
          = b0.toNat + 256 * b1.toNat + 65536 * b2.toNat + 16777216 * b3.toNat
      ∧ (blockWords .le b0 b1 b2 b3 b4 b5 b6 b7).2.toNat
          = b4.toNat + 256 * b5.toNat + 65536 * b6.toNat + 16777216 * b7.toNat
      ∧ (blockWords .be b0 b1 b2 b3 b4 b5 b6 b7).1.toNat
          = b3.toNat + 256 * b2.toNat + 65536 * b1.toNat + 16777216 * b0.toNat
      ∧ (blockWords .be b0 b1 b2 b3 b4 b5 b6 b7).2.toNat
          = b7.toNat + 256 * b6.toNat + 65536 * b5.toNat + 16777216 * b4.toNat

/-- R128, which the spec marks as derived from R121, R122, R124 and R125: for every table, DecBlock and EncBlock undo
each other, so EncBlock is a bijection on pairs of words. -/
def Obligations.BlockFunctionsAreInverse : Prop :=
  ∀ S : RoundKeys,
    (∀ ab : Word × Word, decBlock S (encBlock S ab) = ab ∧ encBlock S (decBlock S ab) = ab)
    ∧ Function.Bijective (encBlock S)

/-- R126, R127 and the spec's inference R128, on steps of the machine: from an idle block with a valid table, the
host's write of ENCB, the engine's completion, the write of DECB and its completion give DATA_A and DATA_B back, and
so do DECB and then ENCB. The engine's turns stand in the schedule (log 1). -/
def Obligations.EncbAndDecbRestoreTheBlock : Prop :=
  ∀ (s : State) (first second : Instr) (rest : List Event), s.busy = false → s.sValid = true →
    (first, second) ∈ [(Instr.encb, Instr.decb), (.decb, .encb)] →
    s.schedule = [issue (.named first), .engine, issue (.named second), .engine] ++ rest →
    ∃ t, runSteps 4 s = .next t ∧ t.dataA = s.dataA ∧ t.dataB = s.dataB ∧ Ended t .ok .none false
      ∧ SameKey s t ∧ SameTable s t ∧ SameOut s t ∧ t.inlen = s.inlen ∧ t.schedule = rest

/-- R100: byte `i` of the working key is byte `i` of the key string, or 0x00 past its end. -/
def Obligations.KeyNormalization : Prop :=
  ∀ (b : List Byte) (i : Fin 16), (keyNormalize b)[i] = if h : i.val < b.length then b[i.val] else 0

/-- R101: KeyWords gives max(1, ceil(len/4)) words, little-endian, the last padded with zero bytes. -/
def Obligations.KeyWordsAreLittleEndian : Prop :=
  ∀ b : List Byte, (keyWords b).length = max 1 ((b.length + 3) / 4)
    ∧ ∀ j n, j < (keyWords b).length → n < 4 →
      ((keyWords b).getD j 0).extractLsb' (8 * n) 8 = b.getD (4 * j + n) 0

/-- R102: `S[0] = P`, `S[i] = S[i-1] + Q`, that is `P + i*Q` modulo 2^32 for i = 0..25. -/
def Obligations.InitialTable : Prop :=
  ∀ p q : Word, (initTable p q)[0] = p
    ∧ (∀ i, (h : i + 1 < 26) → (initTable p q)[i + 1] = (initTable p q)[i] + q)
    ∧ ∀ i, (h : i < 26) → (initTable p q)[i] = p + BitVec.ofNat 32 i * q

/-- R107, which the spec marks as derived from R100 and R104: keys that agree in their first 16 bytes, after padding
with zero bytes, give the same table. -/
def Obligations.KeysEqualAfterNormalizationGiveTheSameTable : Prop :=
  ∀ (p q : Word) (b b' : List Byte), (∀ i, i < 16 → b.getD i 0 = b'.getD i 0) →
    keySchedule p q (keyNormalize b) = keySchedule p q (keyNormalize b')
      ∧ ∀ n, keySchedule p q (keyNormalize (b ++ List.replicate n 0)) = keySchedule p q (keyNormalize b)

/-! ### Messages -/

/-- R140: Pad appends the fewest zero bytes that reach a multiple of 8. -/
def Obligations.PadIsTheLeastMultipleOfEight : Prop :=
  ∀ m : List Byte, ∃ n, pad m = m ++ List.replicate n 0 ∧ (pad m).length % 8 = 0 ∧ n < 8
    ∧ (m.length % 8 = 0 → pad m = m)
    ∧ ∀ k, k % 8 = 0 → m.length ≤ k → (pad m).length ≤ k

/-- R143: Unpad removes every trailing zero byte, across blocks too. -/
def Obligations.UnpadStripsEveryTrailingZero : Prop :=
  ∀ p : List Byte, (∃ n, p = unpad p ++ List.replicate n 0)
    ∧ (unpad p = [] ∨ ∃ v, (unpad p).getLast? = some v ∧ v ≠ 0)
    ∧ (∀ q n, p = q ++ List.replicate n 0 → (unpad p).length ≤ q.length)
    ∧ (unpad p = p ↔ p = [] ∨ p.getLast? ≠ some 0)

/-- R147, which the spec marks as derived from R140, R141 and R144: the length of the output of every form of ENC,
from INLEN alone. And the sentence of R146 that the spec marks as derived from R143, R174 and R177: a DEC's output is
never longer than its decoded input, that never longer than INLEN, so never longer than BUF_BYTES. -/
def Obligations.EncOutputLengths : Prop :=
  ∀ s : State,
    let n := (s.inputLen + 7) / 8
    (s.encText .raw).length = 8 * n ∧ (s.encText (.hex false)).length = 16 * n
      ∧ (s.encText (.hex true)).length = 24 * n - 1 ∧ (s.encText .base64).length = 4 * ((8 * n + 2) / 3)
      ∧ (∀ (i : Instr) (f : OutFmt) (t : State),
          (i, f) ∈ [(Instr.encHex, OutFmt.hex false), (.encHexSep, .hex true), (.encB64, .base64), (.encRaw, .raw)] →
          exec i s = .next t → t.err = .ok → t.outlen = BitVec.ofNat 32 (s.encText f).length)
      ∧ ∀ auto nostrip : Bool,
          (s.decText auto nostrip).length ≤ (s.decSource auto).2.length ∧ (s.decSource auto).2.length ≤ s.inputLen
          ∧ (s.inputLen ≤ s.cfg.bufBytes → (s.decText auto nostrip).length ≤ s.cfg.bufBytes)

/-- R148, which the spec marks as derived from R128, R140, R143 and R185: ENC, its output loaded as the input of DEC
with the same key, gives the message without its trailing zero bytes: ENC.raw with DEC.bytes, ENC.hex, ENC.hex.sep and
ENC.b64 with DEC.auto, but for a Base64 text that is all hex digits; that one has a positive multiple of 24 ciphertext
bytes. -/
def Obligations.EncThenDecReturnsTheMessage : Prop :=
  (∀ (enc dec : Instr) (s t u : State),
    (enc, dec) ∈ [(Instr.encRaw, Instr.decBytes), (.encHex, .decAuto), (.encHexSep, .decAuto), (.encB64, .decAuto)] →
    s.cfg.wf = true → exec enc s = .next t → t.err = .ok →
    u.cfg = s.cfg → u.operands.key = s.operands.key → u.operands.keyValid = true → u.operands.inlen = t.outlen →
    (∀ a, a < t.outlen.toNat → u.operandByte a = t.outByte a) →
    (enc = .encB64 → isHex (s.encText .base64) = false) →
    ∃ v, exec dec u = .next v ∧ v.err = .ok ∧ WroteOut u v (unpad s.message))
  ∧ (∀ m : List Byte, unpad m = m ↔ m = [] ∨ m.getLast? ≠ some 0)
  ∧ ∀ c : List Byte, c.length % 8 = 0 → isHex (b64Encode c) = true → 0 < c.length ∧ c.length % 24 = 0

/-- R149, which the spec marks as derived from R142: ciphertexts that differ only in block `k` decrypt to bytes that
differ only in block `k`. -/
def Obligations.BlocksAreIndependent : Prop :=
  ∀ (order : WordOrder) (S : RoundKeys) (c c' : List Byte) (k : Nat), c.length = c'.length → c.length % 8 = 0 →
    (∀ a, a / 8 ≠ k → c.getD a 0 = c'.getD a 0) →
    (decBytes order S c).length = (decBytes order S c').length
      ∧ ∀ a, a / 8 ≠ k → (decBytes order S c).getD a 0 = (decBytes order S c').getD a 0

/-- R153 (its table and code points: log 10): a byte string is accepted exactly when it is a row of sequences, each in
a row of the table, none of them a rejected character; a sequence of a row is one character, inside the row's code
points. In particular one with a zero byte, or with a byte that no sequence holds, is not text, and one of printable
ASCII characters, tabs, line feeds and carriage returns is. -/
def Obligations.TextCheckOnAsciiAndForbiddenBytes : Prop :=
  (∀ p : List Byte, isPlainText p = true ↔
    ∃ seqs : List (List Byte), p = seqs.flatten
      ∧ ∀ q ∈ seqs, (∃ row ∈ utf8Table, InUtf8Row row q) ∧ q ∉ rejectedSequences)
  ∧ (∀ row ∈ utf8Table, ∀ q, InUtf8Row row q → ∃ c, utf8Chars q = some [c] ∧ row.1 ≤ c ∧ c ≤ row.2.1)
  ∧ ∀ p : List Byte,
    ((0 : Byte) ∈ p → isPlainText p = false)
    ∧ (∀ v ∈ p, (v = 0xC0 ∨ v = 0xC1 ∨ 0xF5 ≤ v.toNat) → isPlainText p = false)
    ∧ ((∀ v ∈ p, (0x20 ≤ v.toNat ∧ v.toNat ≤ 0x7E) ∨ v = 0x09 ∨ v = 0x0A ∨ v = 0x0D) → isPlainText p = true)

/-! ### Format helpers -/

/-- R170 to R174: the whitespace that Strip removes; the digits, by value, and that no other byte has one; what
HexEncode writes, its length, and what IsHex accepts; HexDecode gives the bytes back, from lower and from upper case.
-/
def Obligations.HexTextRoundTrip : Prop :=
  (∀ s : List Byte, strip s = s.filter fun v => decide (v ∉ whitespaceBytes))
  ∧ (∀ n, n < 16 → hexVal (lowerHexDigits.getD n 0) = some (BitVec.ofNat 4 n)
      ∧ hexVal (upperHexDigits.getD n 0) = some (BitVec.ofNat 4 n))
  ∧ (∀ v : Byte, v ∉ lowerHexDigits → v ∉ upperHexDigits → hexVal v = none)
  ∧ (∀ t : List Byte, isHex t = true ↔
      1 ≤ t.length ∧ t.length % 2 = 0 ∧ ∀ v ∈ t, v ∈ lowerHexDigits ∨ v ∈ upperHexDigits)
  ∧ (∀ b : List Byte,
      let pairs := b.map fun v => [lowerHexDigits.getD (v.toNat / 16) 0, lowerHexDigits.getD (v.toNat % 16) 0]
      hexEncode false b = pairs.flatten ∧ hexEncode true b = [0x20].intercalate pairs)
  ∧ ∀ (sep : Bool) (b : List Byte),
    (hexEncode sep b).length = (if sep then 3 * b.length - 1 else 2 * b.length)
    ∧ (b ≠ [] → isHex (strip (hexEncode sep b)) = true) ∧ hexDecode (strip (hexEncode sep b)) = b
    ∧ hexDecode ((strip (hexEncode sep b)).map fun v => if 0x61 ≤ v.toNat then v - 0x20 else v) = b

/-- R175 to R177 (the alphabet: log 10): the 64 characters by value, and that no other byte has one; the characters
and the padding of a full group, of one byte and of two; the length; B64Decode gives the bytes back; and a text is
valid exactly when it is the encoding of some bytes. -/
def Obligations.Base64TextRoundTrip : Prop :=
  let char (n k : Nat) : Byte := b64Alphabet.getD (n / 64 ^ k % 64) 0
  (∀ n, n < 64 → b64Val (b64Alphabet.getD n 0) = some (BitVec.ofNat 6 n))
  ∧ (∀ c : Byte, c ∉ b64Alphabet → b64Val c = none)
  ∧ (∀ (b0 b1 b2 : Byte) (rest : List Byte),
      let n := b0.toNat * 65536 + b1.toNat * 256 + b2.toNat
      b64Encode (b0 :: b1 :: b2 :: rest) = [char n 3, char n 2, char n 1, char n 0] ++ b64Encode rest)
  ∧ (∀ b0 : Byte, b64Encode [b0] = [char (b0.toNat * 65536) 3, char (b0.toNat * 65536) 2, 0x3D, 0x3D])
  ∧ (∀ b0 b1 : Byte,
      let n := b0.toNat * 65536 + b1.toNat * 256
      b64Encode [b0, b1] = [char n 3, char n 2, char n 1, 0x3D])
  ∧ (∀ t : List Byte, b64Valid t = true ↔ ∃ b, b64Encode b = t)
  ∧ ∀ b : List Byte, (b64Encode b).length = 4 * ((b.length + 2) / 3) ∧ strip (b64Encode b) = b64Encode b
    ∧ b64Valid (b64Encode b) = true ∧ b64Decode (b64Encode b) = b

/-- R185, which the spec marks as derived from R173, R176, R177 and R178: a hex text of length 4k is valid Base64 too,
and Detect says HEX; a text that is both has no '=' and a length 4k; a Base64 text of a ciphertext is all hex digits
only for a positive multiple of 24 ciphertext bytes. -/
def Obligations.HexWinsTies : Prop :=
  (∀ s : List Byte, isHex (strip s) = true → (strip s).length % 4 = 0 →
    b64Valid (strip s) = true ∧ detectFmt s = .hex)
  ∧ (∀ t : List Byte, isHex t = true → b64Valid t = true →
    padChar ∉ t ∧ t.length % 4 = 0 ∧ (b64Decode t).length % 3 = 0)
  ∧ ∀ c : List Byte, c.length % 8 = 0 → isHex (b64Encode c) = true → 0 < c.length ∧ c.length % 24 = 0

/-- R173, R177 with 90_conflicts.md C4: a text of odd length after stripping is neither hex nor Base64, so DEC.auto
raises UNSUPPORTED_FORMAT for it. -/
def Obligations.OddLengthTextIsRaw : Prop :=
  (∀ s : List Byte, (strip s).length % 2 = 1 → detectFmt s = .raw)
  ∧ ∀ s : State, s.operands.keyValid = true → s.inputLen ≤ s.cfg.bufBytes → (strip s.message).length % 2 = 1 →
      Raised (exec .decAuto s) s .unsupportedFormat .raw

/-! ### Host accesses -/

/-- 10_state.md R31, R33, 60_exceptions.md R211: where the fields stand in the STATUS word, which reserved bits read
0, and the codes of ERR and FMT. -/
def Obligations.StatusWordFields : Prop :=
  (∀ s : State, s.statusWord.getLsbD 0 = s.busy ∧ s.statusWord.getLsbD 1 = s.done
    ∧ s.statusWord.getLsbD 2 = s.keyValid ∧ s.statusWord.getLsbD 3 = s.sValid ∧ s.statusWord.getLsbD 4 = s.textOk
    ∧ s.statusWord.getLsbD 5 = s.accErr ∧ s.statusWord.extractLsb' 6 2 = 0
    ∧ s.statusWord.extractLsb' 8 4 = s.err.code ∧ s.statusWord.extractLsb' 12 2 = s.fmt.code
    ∧ s.statusWord.extractLsb' 14 18 = 0)
  ∧ ErrCode.ok.code.toNat = 0 ∧ ErrCode.invalidLength.code.toNat = 1 ∧ ErrCode.unsupportedFormat.code.toNat = 2
  ∧ ErrCode.illegalCmd.code.toNat = 3 ∧ ErrCode.noKey.code.toNat = 4 ∧ ErrCode.overflow.code.toNat = 5
  ∧ Fmt.none.code.toNat = 0 ∧ Fmt.hex.code.toNat = 1 ∧ Fmt.base64.code.toNat = 2 ∧ Fmt.raw.code.toNat = 3

/-- R54, R55: what a read returns at every offset of the map while BUSY = 0; no read changes the block. The data stand
in `hostReads` (log 11), the draws of R55 in S and in the buffers (log 5, 6). -/
def Obligations.ReadsWhileIdle : Prop :=
  ∀ (s : State) (off : Nat) (rest : List Event), s.busy = false → off % 4 = 0 → off < 0x3000 →
    s.schedule = .host (.rd .word off) :: rest →
    ∃ d, step s = .next { s with schedule := rest, hostReads := (off, d) :: s.hostReads }
      ∧ (off = 0x000 → d = 0x52433501)
      ∧ (off = 0x004 → d.getLsbD 0 = s.ie ∧ d.extractLsb' 1 31 = 0)
      ∧ (off = 0x008 → d = s.statusWord)
      ∧ (off = 0x00C → d = 0)
      ∧ (off = 0x010 → d = s.inlen)
      ∧ (off = 0x014 → d = s.outlen)
      ∧ (off = 0x018 → d = s.dataA)
      ∧ (off = 0x01C → d = s.dataB)
      ∧ (∀ n m : Nat, (h : n < 4 ∧ m < 4) → off = 0x020 + 4 * n → d.extractLsb' (8 * m) 8 = s.key[4 * n + m])
      ∧ (off = 0x030 → d = BitVec.ofNat 32 s.cfg.bufBytes)
      ∧ (0x034 ≤ off → off ≤ 0x03C → d = 0)
      ∧ (∀ i : Nat, (h : i < 26) → off = 0x040 + 4 * i → d = s.sTable[i])
      ∧ (0x0A8 ≤ off → off ≤ 0x0FFC → d = 0)
      ∧ (∀ i m, m < 4 → off = 0x1000 + i → i < 0x1000 →
          (i < s.cfg.bufBytes → d.extractLsb' (8 * m) 8 = s.inByte (i + m)) ∧ (s.cfg.bufBytes ≤ i → d = 0))
      ∧ (∀ i m, m < 4 → off = 0x2000 + i →
          (i < s.cfg.bufBytes → d.extractLsb' (8 * m) 8 = s.outByte (i + m)) ∧ (s.cfg.bufBytes ≤ i → d = 0))

/-- R56, with R53's byte order: what a write does while BUSY = 0. CMD is R201 (`CommandIssue`), SRST is R241
(`SoftReset`). -/
def Obligations.WritesWhileIdle : Prop :=
  ∀ (s : State) (off : Nat) (v : Word) (rest : List Event), s.busy = false → off % 4 = 0 → off < 0x3000 →
    s.schedule = .host (.wr .word off v) :: rest →
    (off = 0x004 → v.getLsbD 1 = false → step s = .next { s with schedule := rest, ie := v.getLsbD 0 })
    ∧ (off = 0x008 → step s = .next { s with
        schedule := rest, done := s.done && !v.getLsbD 1, accErr := s.accErr && !v.getLsbD 5 })
    ∧ (off = 0x010 → step s = .next { s with schedule := rest, inlen := v })
    ∧ (off = 0x018 → step s = .next { s with schedule := rest, dataA := v })
    ∧ (off = 0x01C → step s = .next { s with schedule := rest, dataB := v })
    ∧ (∀ i, off = 0x1000 + i → i < 0x1000 → i < s.cfg.bufBytes →
        ∃ t, step s = .next t ∧ t = { s with schedule := rest, inBuf := t.inBuf }
          ∧ (∀ n, n < 4 → t.inByte (i + n) = v.extractLsb' (8 * n) 8)
          ∧ ∀ a, a < i ∨ i + 4 ≤ a → t.inByte a = s.inByte a)
    ∧ (off ∉ [0x004, 0x008, 0x00C, 0x010, 0x018, 0x01C] →
        ¬ (0x1000 ≤ off ∧ off < 0x2000 ∧ off - 0x1000 < s.cfg.bufBytes) →
        step s = .next { s with schedule := rest })

/-- R57, with its draws in the model's form (log 7) and the read data in `hostReads` (log 11): accesses while BUSY =
1. A write other than to CTRL and STATUS only sets ACCERR; CTRL and STATUS act as in R56; ID, CTRL, STATUS and BUFSIZE
read their values, and any other read returns a free value and has no other effect. -/
def Obligations.AccessesWhileBusy : Prop :=
  ∀ (s : State) (off : Nat) (rest : List Event), s.busy = true → off % 4 = 0 → off < 0x3000 →
    (∀ v, s.schedule = .host (.wr .word off v) :: rest →
      (off ≠ 0x004 → off ≠ 0x008 → step s = .next { s with schedule := rest, accErr := true })
      ∧ (off = 0x008 → step s = .next { s with
          schedule := rest, done := s.done && !v.getLsbD 1, accErr := s.accErr && !v.getLsbD 5 })
      ∧ (off = 0x004 → v.getLsbD 1 = false → step s = .next { s with schedule := rest, ie := v.getLsbD 0 })
      ∧ (off = 0x004 → v.getLsbD 1 = true → step s = .next { s.softReset with schedule := rest }))
    ∧ (s.schedule = .host (.rd .word off) :: rest →
      (off ∈ [0x000, 0x004, 0x008, 0x030] → ∃ d,
        step s = .next { s with schedule := rest, hostReads := (off, d) :: s.hostReads }
        ∧ (off = 0x000 → d = 0x52433501) ∧ (off = 0x004 → d = s.ctrlWord) ∧ (off = 0x008 → d = s.statusWord)
        ∧ (off = 0x030 → d = BitVec.ofNat 32 s.cfg.bufBytes))
      ∧ (off ∉ [0x000, 0x004, 0x008, 0x030] →
        step s = .next { s with
          schedule := rest, hostReads := (off, Config.busyRead s.draws) :: s.hostReads, draws := s.draws + 1 }))

/-- R53: a word written into IN_BUF reads back as it was written, and its byte with the lowest index is its least
significant one. -/
def Obligations.InBufWordReadsBack : Prop :=
  ∀ (s : State) (i : Nat) (v : Word) (rest : List Event), s.busy = false → i % 4 = 0 → i < 0x1000 →
    i < s.cfg.bufBytes →
    s.schedule = .host (.wr .word (0x1000 + i) v) :: .host (.rd .word (0x1000 + i)) :: rest →
    ∃ t u, step s = .next t ∧ step t = .next u ∧ u.hostReads = (0x1000 + i, v) :: s.hostReads
      ∧ u.schedule = rest ∧ u.inByte i = v.extractLsb' 0 8 ∧ u.inByte (i + 3) = v.extractLsb' 24 8

/-- R52, 93_implementation_defined.md U1: a step is refused exactly when the host's next operation is an access of 8
or 16 bits, misaligned, or at 0x3000 and above; no step faults. -/
def Obligations.OnlyUndefinedAccessesAreRefused : Prop :=
  ∀ s : State,
    ((∃ r, step s = .refused r) ↔ ∃ op rest, s.schedule = .host op :: rest ∧ ¬ op.defined)
    ∧ ((∃ t, step s = .next t) ↔ ∀ op rest, s.schedule = .host op :: rest → op.defined)
    ∧ ∀ r, step s ≠ .fault r

/-- R41, 60_exceptions.md R214: IRQ is IE and DONE; it is 0 at reset, rises at every completion, a failing one too,
when IE = 1, and falls when the host clears DONE or IE or issues a command. -/
def Obligations.IrqLine : Prop :=
  (∀ s : State, s.irq = true ↔ s.ie = true ∧ s.done = true)
  ∧ State.reset.irq = false
  ∧ (∀ s t : State, s.busy = true → complete s = .next t → t.irq = s.ie)
  ∧ ∀ (s t : State) (off : Nat) (v : Word) (rest : List Event),
      s.schedule = .host (.wr .word off v) :: rest → step s = .next t →
      (off = 0x008 → v.getLsbD 1 = true → t.irq = false)
      ∧ (off = 0x004 → v.getLsbD 0 = false → t.irq = false)
      ∧ (off = 0x00C → s.busy = false → t.irq = false)

/-- R241: a CTRL write with bit 1 = 1 resets, whether BUSY is 0 or 1, and whatever bit 0 is: IN_BUF, OUT_BUF and the
contents of S stay, all else takes its power-on value, and a pending command is gone without a completion. -/
def Obligations.SoftReset : Prop :=
  ∀ (s : State) (v : Word) (rest : List Event), s.schedule = .host (.wr .word 0x004 v) :: rest →
    v.getLsbD 1 = true →
    ∃ t, step s = .next t ∧ t.pending = none ∧ t.statusWord = 0 ∧ t.ctrlWord = 0 ∧ t.irq = false
      ∧ t.dataA = 0 ∧ t.dataB = 0 ∧ (∀ i : Fin 16, t.key[i] = 0) ∧ t.keyValid = false ∧ t.sValid = false
      ∧ t.inlen = 0 ∧ t.outlen = 0 ∧ t.sTable = s.sTable
      ∧ (∀ a, t.inByte a = s.inByte a) ∧ (∀ a, t.outByte a = s.outByte a)
      ∧ t.cfg = s.cfg ∧ t.schedule = rest ∧ t.hostReads = s.hostReads ∧ t.draws = s.draws

/-- R240: the values after power-on, at the machine's start and after a later power-on reset. S, IN_BUF and OUT_BUF
hold draws, in the model's form of them (log 5, 6, 12). -/
def Obligations.PowerOnReset : Prop :=
  (∀ t : State, (t = State.reset ∨ ∃ s rest, s.schedule = .powerOn :: rest ∧ step s = .next t) →
    t.pending = none ∧ t.statusWord = 0 ∧ t.ctrlWord = 0 ∧ t.irq = false ∧ t.dataA = 0 ∧ t.dataB = 0
      ∧ (∀ i : Fin 16, t.key[i] = 0) ∧ t.keyValid = false ∧ t.sValid = false ∧ t.inlen = 0 ∧ t.outlen = 0
      ∧ (∀ i : Fin 26, t.sTable[i] = Config.powerOnWord t.powerCycle i)
      ∧ (∀ a, t.inByte a = Config.powerOnByte .inBuf t.powerCycle a)
      ∧ ∀ a, t.outByte a = Config.powerOnByte .outBuf t.powerCycle a)
  ∧ ∀ (s : State) (rest : List Event), s.schedule = .powerOn :: rest →
      ∃ t, step s = .next t ∧ t.powerCycle = s.powerCycle + 1 ∧ t.cfg = s.cfg ∧ t.schedule = rest

/-- R78, R79, in the model's form of them (log 11): POLL and WAITIRQ wait for the engine and then go on; RDOUT reads
OUTLEN and then the words of OUT_BUF that hold the result. -/
def Obligations.HostWaitsAndReadsOut : Prop :=
  ∀ (s : State) (rest : List Event),
    (s.schedule = .host .poll :: rest →
      (s.busy = true → ∃ t, step s = .next t ∧ t.busy = false ∧ t.schedule = s.schedule)
      ∧ (s.busy = false →
        step s = .next { s with schedule := rest, hostReads := (0x008, s.statusWord) :: s.hostReads }))
    ∧ (s.schedule = .host .waitIrq :: rest →
      (s.irq = true → step s = .next { s with schedule := rest })
      ∧ (s.irq = false → s.busy = true → ∃ t, step s = .next t ∧ t.busy = false ∧ t.schedule = s.schedule)
      ∧ (s.irq = false → s.busy = false → step s = .next s))
    ∧ (s.schedule = .host .rdout :: rest → s.busy = false →
      ∃ t, step s = .next t ∧ t.hostReads = (0x014, s.outlen) :: s.hostReads
        ∧ t.schedule = (List.range ((s.outlen.toNat + 3) / 4)).map
            (fun k => Event.host (.rd .word (0x2000 + 4 * k))) ++ rest)

/-- R79: LDIN places the bytes in IN_BUF and their number in INLEN. -/
def Obligations.LdinPlacesTheBytes : Prop :=
  ∀ (s : State) (b : List Byte) (rest : List Event), s.busy = false → s.cfg.wf = true → b.length ≤ s.cfg.bufBytes →
    s.schedule = ldin b ++ rest →
    ∃ t, runSteps (ldin b).length s = .next t ∧ (∀ a, a < b.length → t.inByte a = b.getD a 0)
      ∧ t.inlen.toNat = b.length ∧ t.schedule = rest ∧ t.busy = false
      ∧ SameKey s t ∧ SameTable s t ∧ SameData s t ∧ SameOut s t

/-! ### Invariant and progress -/

/-- The invariant holds after power-on reset. -/
def Obligations.ResetMeetsTheInvariant : Prop := State.reset.Inv

/-- Every step keeps the invariant: the buffers stay in canonical form and in bounds, SVALID means that S is KS(K)
(R25), TEXT_OK means a successful DEC (R31), and the captured inputs of a pending command are the current values
(R38). -/
def Obligations.StepKeepsTheInvariant : Prop :=
  ∀ s t : State, s.Inv → step s = .next t → t.Inv

/-- R38, which the spec marks as derived from R36 and R57: where the invariant holds, the values a command works on
are the block's current registers and IN_BUF bytes. -/
def Obligations.CommandsWorkOnTheCurrentValues : Prop :=
  ∀ s : State, s.Inv → s.operands = s.snapshot ∧ s.inputLen = s.inlen.toNat ∧ ∀ a, s.operandByte a = s.inByte a

/-- R202's fairness in the model's form (log 1): a schedule of defined accesses, engine turns and power-on resets runs
to its end in as many steps as it has events, and one more step leaves the block idle. -/
def Obligations.ScheduleRunsToIdle : Prop :=
  ∀ s : State, (∀ e ∈ s.schedule, e.oneStep) →
    ∃ t, runSteps (s.schedule.length + 1) s = .next t ∧ t.schedule = [] ∧ t.busy = false
end

