-- ==== Sys2Proof/Laws/Codec.lean ====
section
/-! SUPPORT. The lengths of the codecs' and of the message functions' results, which bound the output of DEC
(42_message_transform.md R146) and of the decoding helpers. -/

namespace Sys2Proof.Machine

theorem strip_length_le (s : List Byte) : (strip s).length ≤ s.length := List.length_filter_le _ _

theorem hexDecode_length_le : ∀ t : List Byte, (hexDecode t).length ≤ t.length
  | [] => Nat.le_refl _
  | [_] => Nat.zero_le _
  | _ :: _ :: rest => by
    have ih := hexDecode_length_le rest
    simp only [hexDecode, List.length_cons]
    omega

theorem b64DecodeBody_length_le : ∀ t : List Byte, (b64DecodeBody t).length ≤ t.length
  | [] => Nat.le_refl _
  | [_] => Nat.zero_le _
  | [_, _] => by simp [b64DecodeBody]
  | [_, _, _] => by simp [b64DecodeBody]
  | _ :: _ :: _ :: _ :: rest => by
    have ih := b64DecodeBody_length_le rest
    simp only [b64DecodeBody, List.length_cons]
    omega

theorem b64Decode_length_le (t : List Byte) : (b64Decode t).length ≤ t.length :=
  (b64DecodeBody_length_le _).trans (List.takeWhile_sublist _).length_le

theorem decodeInput_length_le (f : Fmt) (s : List Byte) : (decodeInput f s).length ≤ s.length := by
  cases f with
  | none => exact Nat.zero_le _
  | raw => exact Nat.zero_le _
  | hex => exact (hexDecode_length_le _).trans (strip_length_le s)
  | base64 => exact (b64Decode_length_le _).trans (strip_length_le s)

@[simp] theorem bytesLe_length (w : Word) : (bytesLe w).length = 4 := rfl

@[simp] theorem bytesOf_length (order : WordOrder) (w : Word) : (bytesOf order w).length = 4 := by
  cases order <;> rfl

@[simp] theorem blockBytes_length (order : WordOrder) (ab : Word × Word) : (blockBytes order ab).length = 8 := by
  simp [blockBytes]

/-- A block function keeps every whole block and drops what is left over. -/
theorem mapBlocks_length (order : WordOrder) (f : Word × Word → Word × Word) :
    ∀ x : List Byte, (mapBlocks order f x).length = x.length / 8 * 8
  | b0 :: b1 :: b2 :: b3 :: b4 :: b5 :: b6 :: b7 :: rest => by
    have ih := mapBlocks_length order f rest
    simp only [mapBlocks, List.length_append, blockBytes_length, ih, List.length_cons]
    omega
  | [] => by simp [mapBlocks]
  | [_] => by simp [mapBlocks]
  | [_, _] => by simp [mapBlocks]
  | [_, _, _] => by simp [mapBlocks]
  | [_, _, _, _] => by simp [mapBlocks]
  | [_, _, _, _, _] => by simp [mapBlocks]
  | [_, _, _, _, _, _] => by simp [mapBlocks]
  | [_, _, _, _, _, _, _] => by simp [mapBlocks]

theorem unpad_length_le (p : List Byte) : (unpad p).length ≤ p.length := by
  have h := (List.dropWhile_sublist (fun v : Byte => v == 0) (l := p.reverse)).length_le
  simpa [unpad] using h

theorem pad_length_mod (m : List Byte) : (pad m).length % 8 = 0 := by
  simp only [pad, List.length_append, List.length_replicate]
  omega

end Sys2Proof.Machine
end

