-- ==== Sys2Proof/Laws/Memory.lean ====
section
/-! SUPPORT. The laws of the buffers: a read after a write, the canonical form and the bound are kept, and equal
contents in canonical form are equal data. -/

namespace Sys2Proof.Machine.Memory

@[simp] theorem lookup_nil (a : Nat) : lookup [] a = none := rfl

@[simp] theorem putBytes_nil (m : Memory) (a : Nat) : putBytes m a [] = m := rfl

@[simp] theorem putBytes_cons (m : Memory) (a : Nat) (v : Byte) (rest : List Byte) :
    putBytes m a (v :: rest) = putBytes (put m a v) (a + 1) rest := rfl

/-- A read of one index after a write of one index. -/
theorem lookup_put (m : Memory) (a b : Nat) (v : Byte) :
    (put m a v).lookup b = if a = b then some v else m.lookup b := by
  induction m with
  | nil => simp [put, lookup]
  | cons c rest ih =>
    by_cases h1 : a < c.1
    · simp [put, h1, lookup]
    · by_cases h2 : a = c.1
      · simp only [put, h2, lookup, ite_true, ite_false, lt_irrefl]
        by_cases h3 : c.1 = b <;> simp [h3]
      · simp only [put, h1, h2, lookup, ite_false, ih]
        by_cases h3 : c.1 = b
        · have : a ≠ b := fun h => h2 (h.trans h3.symm)
          simp [h3, this]
        · simp [h3]

/-- A read after a write of several bytes: a written byte inside, the old byte outside. -/
theorem lookup_putBytes (m : Memory) (a b : Nat) (vs : List Byte) :
    (putBytes m a vs).lookup b = if a ≤ b ∧ b < a + vs.length then vs[b - a]? else m.lookup b := by
  induction vs generalizing m a with
  | nil =>
    have : ¬ (a ≤ b ∧ b < a + ([] : List Byte).length) := by simp
    rw [putBytes_nil, if_neg this]
  | cons v rest ih =>
    rw [putBytes_cons, ih, lookup_put]
    by_cases h : a = b
    · subst h
      simp
    · by_cases h2 : a + 1 ≤ b ∧ b < a + 1 + rest.length
      · have h3 : a ≤ b ∧ b < a + (v :: rest).length := by simp; omega
        have h4 : b - a = (b - (a + 1)) + 1 := by omega
        rw [if_pos h2, if_pos h3, h4, List.getElem?_cons_succ]
      · have h3 : ¬ (a ≤ b ∧ b < a + (v :: rest).length) := by simp; omega
        rw [if_neg h2, if_neg h3, if_neg h]

theorem byteAt_putBytes_inside (m : Memory) (buf : BufId) (cycle a b : Nat) (vs : List Byte) (h : b < vs.length) :
    (putBytes m a vs).byteAt buf cycle (a + b) = vs.getD b 0 := by
  have h1 : a ≤ a + b ∧ a + b < a + vs.length := by omega
  have h2 : a + b - a = b := by omega
  simp [byteAt, lookup_putBytes, h1, h2, h]

theorem byteAt_putBytes_outside (m : Memory) (buf : BufId) (cycle a b : Nat) (vs : List Byte)
    (h : b < a ∨ a + vs.length ≤ b) : (putBytes m a vs).byteAt buf cycle b = m.byteAt buf cycle b := by
  have h1 : ¬ (a ≤ b ∧ b < a + vs.length) := by omega
  simp [byteAt, lookup_putBytes, h1]

/-! ### Canonical form and bound -/

theorem wf_tail {c : Host.Cell} {m : Memory} (h : wf (c :: m) = true) : wf m = true := by
  cases m with
  | nil => rfl
  | cons d rest =>
    simp only [wf, Bool.and_eq_true] at h
    exact h.2

theorem wf_cons_of_lt {c : Host.Cell} {m : Memory} (h : wf m = true) (hlt : ∀ d ∈ m.head?, c.1 < d.1) :
    wf (c :: m) = true := by
  cases m with
  | nil => rfl
  | cons d rest => simp [wf, h, hlt d (by simp)]

theorem head_put (m : Memory) (a : Nat) (v : Byte) :
    ∀ d ∈ (put m a v).head?, d.1 = a ∨ ∃ e ∈ m.head?, d.1 = e.1 := by
  cases m with
  | nil => simp [put]
  | cons c rest =>
    by_cases h1 : a < c.1
    · simp [put, h1]
    · by_cases h2 : a = c.1 <;> simp [put, h1, h2]

theorem put_wf (m : Memory) (a : Nat) (v : Byte) (h : wf m = true) : wf (put m a v) = true := by
  induction m with
  | nil => rfl
  | cons c rest ih =>
    by_cases h1 : a < c.1
    · simp [put, h1, wf, h]
    · by_cases h2 : a = c.1
      · simp only [put, h2, lt_irrefl, ite_false, ite_true]
        refine wf_cons_of_lt (wf_tail h) ?_
        cases rest with
        | nil => simp
        | cons d r =>
          simp only [wf, Bool.and_eq_true, decide_eq_true_eq] at h
          simpa using h.1
      · simp only [put, h1, h2, ite_false]
        refine wf_cons_of_lt (ih (wf_tail h)) ?_
        intro d hd
        rcases head_put rest a v d hd with he | ⟨e, he, hde⟩
        · omega
        · cases rest with
          | nil => simp at he
          | cons x r =>
            simp only [wf, Bool.and_eq_true, decide_eq_true_eq] at h
            simp only [List.head?_cons, Option.mem_def, Option.some.injEq] at he
            subst he
            omega

theorem putBytes_wf (m : Memory) (a : Nat) (vs : List Byte) (h : wf m = true) : wf (putBytes m a vs) = true := by
  induction vs generalizing m a with
  | nil => exact h
  | cons v rest ih => exact ih _ _ (put_wf m a v h)

theorem put_below (n : Nat) (m : Memory) (a : Nat) (v : Byte) (h : below n m = true) (ha : a < n) :
    below n (put m a v) = true := by
  induction m with
  | nil => simp [put, below, ha]
  | cons c rest ih =>
    simp only [below, List.all_cons, Bool.and_eq_true, decide_eq_true_eq] at h ih ⊢
    by_cases h1 : a < c.1
    · simp [put, h1, ha, h.1]
      simpa using h.2
    · by_cases h2 : a = c.1
      · simp only [put, h2, lt_irrefl, ite_false, ite_true, List.all_cons, Bool.and_eq_true, decide_eq_true_eq]
        exact ⟨h.1, h.2⟩
      · simp only [put, h1, h2, ite_false, List.all_cons, Bool.and_eq_true, decide_eq_true_eq]
        exact ⟨h.1, ih h.2⟩

theorem putBytes_below (n : Nat) (m : Memory) (a : Nat) (vs : List Byte) (h : below n m = true)
    (ha : a + vs.length ≤ n) : below n (putBytes m a vs) = true := by
  induction vs generalizing m a with
  | nil => exact h
  | cons v rest ih =>
    simp only [List.length_cons] at ha
    exact ih _ _ (put_below n m a v h (by omega)) (by omega)

theorem lookup_of_lt_head {m : Memory} (h : wf m = true) {a : Nat} (ha : ∀ d ∈ m.head?, a < d.1) :
    m.lookup a = none := by
  induction m with
  | nil => rfl
  | cons c rest ih =>
    have hc : a < c.1 := ha c (by simp)
    have : c.1 ≠ a := by omega
    simp only [lookup, this, ite_false]
    refine ih (wf_tail h) ?_
    intro d hd
    cases rest with
    | nil => simp at hd
    | cons x r =>
      simp only [wf, Bool.and_eq_true, decide_eq_true_eq] at h
      simp only [List.head?_cons, Option.mem_def, Option.some.injEq] at hd
      subst hd
      omega

/-- Two buffers in canonical form that give the same byte at every index are the same data. -/
theorem eq_of_lookup_eq (m n : Memory) (hm : wf m = true) (hn : wf n = true) (h : ∀ a, m.lookup a = n.lookup a) :
    m = n := by
  induction m generalizing n with
  | nil =>
    cases n with
    | nil => rfl
    | cons d r => have := h d.1; simp [lookup] at this
  | cons c rest ih =>
    cases n with
    | nil => have := h c.1; simp [lookup] at this
    | cons d r =>
      have hlt : ∀ {x : Host.Cell} {l : Memory}, wf (x :: l) = true → ∀ e ∈ l.head?, x.1 < e.1 := by
        intro x l hw e he
        cases l with
        | nil => simp at he
        | cons y l' =>
          simp only [wf, Bool.and_eq_true, decide_eq_true_eq] at hw
          simp only [List.head?_cons, Option.mem_def, Option.some.injEq] at he
          subst he
          exact hw.1
      have hcd : c.1 = d.1 := by
        rcases lt_trichotomy c.1 d.1 with hl | he | hg
        · have h1 := h c.1
          rw [lookup_of_lt_head (m := d :: r) hn (by intro e he; simp at he; subst he; exact hl)] at h1
          simp [lookup] at h1
        · exact he
        · have h1 := h d.1
          rw [lookup_of_lt_head (m := c :: rest) hm (by intro e he; simp at he; subst he; exact hg)] at h1
          simp [lookup] at h1
      have hv : c.2 = d.2 := by
        have h1 := h c.1
        simpa [lookup, hcd] using h1
      have hrest : rest = r := by
        refine ih r (wf_tail hm) (wf_tail hn) ?_
        intro a
        by_cases hac : c.1 = a
        · subst hac
          rw [lookup_of_lt_head (wf_tail hm) (hlt hm)]
          have h2 : ∀ e ∈ r.head?, c.1 < e.1 := fun e he => hcd ▸ hlt hn e he
          rw [lookup_of_lt_head (wf_tail hn) h2]
        · have h1 := h a
          simpa [lookup, hac, hcd ▸ hac] using h1
      rw [hrest, Prod.ext hcd hv]

@[simp] theorem readBytes_length (m : Memory) (buf : BufId) (cycle n : Nat) :
    (m.readBytes buf cycle n).length = n := by
  simp [readBytes]

theorem readBytes_getD (m : Memory) (buf : BufId) (cycle n a : Nat) (h : a < n) :
    (m.readBytes buf cycle n).getD a 0 = m.byteAt buf cycle a := by
  simp [readBytes, h]

/-- Two buffers that agree below `n` give the same first `n` bytes. -/
theorem readBytes_congr (m m' : Memory) (buf : BufId) (cycle cycle' n : Nat)
    (h : ∀ a, a < n → m.byteAt buf cycle a = m'.byteAt buf cycle' a) :
    m.readBytes buf cycle n = m'.readBytes buf cycle' n := by
  apply List.map_congr_left
  intro a ha
  exact h a (by simpa using ha)

end Sys2Proof.Machine.Memory
end

