-- ==== Sys2Proof/Laws/State.lean ====
section
/-! SUPPORT. What each update of the state does to each field: one lemma for each field and update, true by `rfl`, so
that no later proof unfolds a record update. -/

namespace Sys2Proof.Machine.State

/-! ### `finish` -/

@[simp] theorem finish_cfg (s : State) (e : ErrCode) (f : Fmt) (x : Bool) : (s.finish e f x).cfg = s.cfg := rfl
@[simp] theorem finish_dataA (s : State) (e : ErrCode) (f : Fmt) (x : Bool) : (s.finish e f x).dataA = s.dataA := rfl
@[simp] theorem finish_dataB (s : State) (e : ErrCode) (f : Fmt) (x : Bool) : (s.finish e f x).dataB = s.dataB := rfl
@[simp] theorem finish_key (s : State) (e : ErrCode) (f : Fmt) (x : Bool) : (s.finish e f x).key = s.key := rfl
@[simp] theorem finish_keyValid (s : State) (e : ErrCode) (f : Fmt) (x : Bool) : (s.finish e f x).keyValid = s.keyValid := rfl
@[simp] theorem finish_sTable (s : State) (e : ErrCode) (f : Fmt) (x : Bool) : (s.finish e f x).sTable = s.sTable := rfl
@[simp] theorem finish_sValid (s : State) (e : ErrCode) (f : Fmt) (x : Bool) : (s.finish e f x).sValid = s.sValid := rfl
@[simp] theorem finish_inlen (s : State) (e : ErrCode) (f : Fmt) (x : Bool) : (s.finish e f x).inlen = s.inlen := rfl
@[simp] theorem finish_outlen (s : State) (e : ErrCode) (f : Fmt) (x : Bool) : (s.finish e f x).outlen = s.outlen := rfl
@[simp] theorem finish_inBuf (s : State) (e : ErrCode) (f : Fmt) (x : Bool) : (s.finish e f x).inBuf = s.inBuf := rfl
@[simp] theorem finish_outBuf (s : State) (e : ErrCode) (f : Fmt) (x : Bool) : (s.finish e f x).outBuf = s.outBuf := rfl
@[simp] theorem finish_ie (s : State) (e : ErrCode) (f : Fmt) (x : Bool) : (s.finish e f x).ie = s.ie := rfl
@[simp] theorem finish_done (s : State) (e : ErrCode) (f : Fmt) (x : Bool) : (s.finish e f x).done = true := rfl
@[simp] theorem finish_textOk (s : State) (e : ErrCode) (f : Fmt) (x : Bool) : (s.finish e f x).textOk = x := rfl
@[simp] theorem finish_accErr (s : State) (e : ErrCode) (f : Fmt) (x : Bool) : (s.finish e f x).accErr = s.accErr := rfl
@[simp] theorem finish_err (s : State) (e : ErrCode) (f : Fmt) (x : Bool) : (s.finish e f x).err = e := rfl
@[simp] theorem finish_fmt (s : State) (e : ErrCode) (f : Fmt) (x : Bool) : (s.finish e f x).fmt = f := rfl
@[simp] theorem finish_pending (s : State) (e : ErrCode) (f : Fmt) (x : Bool) : (s.finish e f x).pending = none := rfl
@[simp] theorem finish_schedule (s : State) (e : ErrCode) (f : Fmt) (x : Bool) : (s.finish e f x).schedule = s.schedule := rfl
@[simp] theorem finish_hostReads (s : State) (e : ErrCode) (f : Fmt) (x : Bool) : (s.finish e f x).hostReads = s.hostReads := rfl
@[simp] theorem finish_draws (s : State) (e : ErrCode) (f : Fmt) (x : Bool) : (s.finish e f x).draws = s.draws := rfl
@[simp] theorem finish_powerCycle (s : State) (e : ErrCode) (f : Fmt) (x : Bool) : (s.finish e f x).powerCycle = s.powerCycle := rfl

/-! ### `raise` -/

@[simp] theorem raise_cfg (s : State) (e : ErrCode) (f : Fmt) : (s.raise e f).cfg = s.cfg := rfl
@[simp] theorem raise_dataA (s : State) (e : ErrCode) (f : Fmt) : (s.raise e f).dataA = s.dataA := rfl
@[simp] theorem raise_dataB (s : State) (e : ErrCode) (f : Fmt) : (s.raise e f).dataB = s.dataB := rfl
@[simp] theorem raise_key (s : State) (e : ErrCode) (f : Fmt) : (s.raise e f).key = s.key := rfl
@[simp] theorem raise_keyValid (s : State) (e : ErrCode) (f : Fmt) : (s.raise e f).keyValid = s.keyValid := rfl
@[simp] theorem raise_sTable (s : State) (e : ErrCode) (f : Fmt) : (s.raise e f).sTable = s.sTable := rfl
@[simp] theorem raise_sValid (s : State) (e : ErrCode) (f : Fmt) : (s.raise e f).sValid = s.sValid := rfl
@[simp] theorem raise_inlen (s : State) (e : ErrCode) (f : Fmt) : (s.raise e f).inlen = s.inlen := rfl
@[simp] theorem raise_outlen (s : State) (e : ErrCode) (f : Fmt) : (s.raise e f).outlen = s.outlen := rfl
@[simp] theorem raise_inBuf (s : State) (e : ErrCode) (f : Fmt) : (s.raise e f).inBuf = s.inBuf := rfl
@[simp] theorem raise_outBuf (s : State) (e : ErrCode) (f : Fmt) : (s.raise e f).outBuf = s.outBuf := rfl
@[simp] theorem raise_ie (s : State) (e : ErrCode) (f : Fmt) : (s.raise e f).ie = s.ie := rfl
@[simp] theorem raise_done (s : State) (e : ErrCode) (f : Fmt) : (s.raise e f).done = true := rfl
@[simp] theorem raise_textOk (s : State) (e : ErrCode) (f : Fmt) : (s.raise e f).textOk = false := rfl
@[simp] theorem raise_accErr (s : State) (e : ErrCode) (f : Fmt) : (s.raise e f).accErr = s.accErr := rfl
@[simp] theorem raise_err (s : State) (e : ErrCode) (f : Fmt) : (s.raise e f).err = e := rfl
@[simp] theorem raise_fmt (s : State) (e : ErrCode) (f : Fmt) : (s.raise e f).fmt = f := rfl
@[simp] theorem raise_pending (s : State) (e : ErrCode) (f : Fmt) : (s.raise e f).pending = none := rfl
@[simp] theorem raise_schedule (s : State) (e : ErrCode) (f : Fmt) : (s.raise e f).schedule = s.schedule := rfl
@[simp] theorem raise_hostReads (s : State) (e : ErrCode) (f : Fmt) : (s.raise e f).hostReads = s.hostReads := rfl
@[simp] theorem raise_draws (s : State) (e : ErrCode) (f : Fmt) : (s.raise e f).draws = s.draws := rfl
@[simp] theorem raise_powerCycle (s : State) (e : ErrCode) (f : Fmt) : (s.raise e f).powerCycle = s.powerCycle := rfl

/-! ### `succeed` -/

@[simp] theorem succeed_cfg (s : State) (f : Fmt) (x : Bool) : (s.succeed f x).cfg = s.cfg := rfl
@[simp] theorem succeed_dataA (s : State) (f : Fmt) (x : Bool) : (s.succeed f x).dataA = s.dataA := rfl
@[simp] theorem succeed_dataB (s : State) (f : Fmt) (x : Bool) : (s.succeed f x).dataB = s.dataB := rfl
@[simp] theorem succeed_key (s : State) (f : Fmt) (x : Bool) : (s.succeed f x).key = s.key := rfl
@[simp] theorem succeed_keyValid (s : State) (f : Fmt) (x : Bool) : (s.succeed f x).keyValid = s.keyValid := rfl
@[simp] theorem succeed_sTable (s : State) (f : Fmt) (x : Bool) : (s.succeed f x).sTable = s.sTable := rfl
@[simp] theorem succeed_sValid (s : State) (f : Fmt) (x : Bool) : (s.succeed f x).sValid = s.sValid := rfl
@[simp] theorem succeed_inlen (s : State) (f : Fmt) (x : Bool) : (s.succeed f x).inlen = s.inlen := rfl
@[simp] theorem succeed_outlen (s : State) (f : Fmt) (x : Bool) : (s.succeed f x).outlen = s.outlen := rfl
@[simp] theorem succeed_inBuf (s : State) (f : Fmt) (x : Bool) : (s.succeed f x).inBuf = s.inBuf := rfl
@[simp] theorem succeed_outBuf (s : State) (f : Fmt) (x : Bool) : (s.succeed f x).outBuf = s.outBuf := rfl
@[simp] theorem succeed_ie (s : State) (f : Fmt) (x : Bool) : (s.succeed f x).ie = s.ie := rfl
@[simp] theorem succeed_done (s : State) (f : Fmt) (x : Bool) : (s.succeed f x).done = true := rfl
@[simp] theorem succeed_textOk (s : State) (f : Fmt) (x : Bool) : (s.succeed f x).textOk = x := rfl
@[simp] theorem succeed_accErr (s : State) (f : Fmt) (x : Bool) : (s.succeed f x).accErr = s.accErr := rfl
@[simp] theorem succeed_err (s : State) (f : Fmt) (x : Bool) : (s.succeed f x).err = .ok := rfl
@[simp] theorem succeed_fmt (s : State) (f : Fmt) (x : Bool) : (s.succeed f x).fmt = f := rfl
@[simp] theorem succeed_pending (s : State) (f : Fmt) (x : Bool) : (s.succeed f x).pending = none := rfl
@[simp] theorem succeed_schedule (s : State) (f : Fmt) (x : Bool) : (s.succeed f x).schedule = s.schedule := rfl
@[simp] theorem succeed_hostReads (s : State) (f : Fmt) (x : Bool) : (s.succeed f x).hostReads = s.hostReads := rfl
@[simp] theorem succeed_draws (s : State) (f : Fmt) (x : Bool) : (s.succeed f x).draws = s.draws := rfl
@[simp] theorem succeed_powerCycle (s : State) (f : Fmt) (x : Bool) : (s.succeed f x).powerCycle = s.powerCycle := rfl

/-! ### `commitKey` -/

@[simp] theorem commitKey_cfg (s : State) (k : WorkingKey) : (s.commitKey k).cfg = s.cfg := rfl
@[simp] theorem commitKey_dataA (s : State) (k : WorkingKey) : (s.commitKey k).dataA = s.dataA := rfl
@[simp] theorem commitKey_dataB (s : State) (k : WorkingKey) : (s.commitKey k).dataB = s.dataB := rfl
@[simp] theorem commitKey_key (s : State) (k : WorkingKey) : (s.commitKey k).key = k := rfl
@[simp] theorem commitKey_keyValid (s : State) (k : WorkingKey) : (s.commitKey k).keyValid = true := rfl
@[simp] theorem commitKey_sTable (s : State) (k : WorkingKey) : (s.commitKey k).sTable = s.sTable := rfl
@[simp] theorem commitKey_sValid (s : State) (k : WorkingKey) : (s.commitKey k).sValid = false := rfl
@[simp] theorem commitKey_inlen (s : State) (k : WorkingKey) : (s.commitKey k).inlen = s.inlen := rfl
@[simp] theorem commitKey_outlen (s : State) (k : WorkingKey) : (s.commitKey k).outlen = s.outlen := rfl
@[simp] theorem commitKey_inBuf (s : State) (k : WorkingKey) : (s.commitKey k).inBuf = s.inBuf := rfl
@[simp] theorem commitKey_outBuf (s : State) (k : WorkingKey) : (s.commitKey k).outBuf = s.outBuf := rfl
@[simp] theorem commitKey_ie (s : State) (k : WorkingKey) : (s.commitKey k).ie = s.ie := rfl
@[simp] theorem commitKey_done (s : State) (k : WorkingKey) : (s.commitKey k).done = s.done := rfl
@[simp] theorem commitKey_textOk (s : State) (k : WorkingKey) : (s.commitKey k).textOk = s.textOk := rfl
@[simp] theorem commitKey_accErr (s : State) (k : WorkingKey) : (s.commitKey k).accErr = s.accErr := rfl
@[simp] theorem commitKey_err (s : State) (k : WorkingKey) : (s.commitKey k).err = s.err := rfl
@[simp] theorem commitKey_fmt (s : State) (k : WorkingKey) : (s.commitKey k).fmt = s.fmt := rfl
@[simp] theorem commitKey_pending (s : State) (k : WorkingKey) : (s.commitKey k).pending = s.pending := rfl
@[simp] theorem commitKey_schedule (s : State) (k : WorkingKey) : (s.commitKey k).schedule = s.schedule := rfl
@[simp] theorem commitKey_hostReads (s : State) (k : WorkingKey) : (s.commitKey k).hostReads = s.hostReads := rfl
@[simp] theorem commitKey_draws (s : State) (k : WorkingKey) : (s.commitKey k).draws = s.draws := rfl
@[simp] theorem commitKey_powerCycle (s : State) (k : WorkingKey) : (s.commitKey k).powerCycle = s.powerCycle := rfl

/-! ### `commitTable` -/

@[simp] theorem commitTable_cfg (s : State) (k : RoundKeys) : (s.commitTable k).cfg = s.cfg := rfl
@[simp] theorem commitTable_dataA (s : State) (k : RoundKeys) : (s.commitTable k).dataA = s.dataA := rfl
@[simp] theorem commitTable_dataB (s : State) (k : RoundKeys) : (s.commitTable k).dataB = s.dataB := rfl
@[simp] theorem commitTable_key (s : State) (k : RoundKeys) : (s.commitTable k).key = s.key := rfl
@[simp] theorem commitTable_keyValid (s : State) (k : RoundKeys) : (s.commitTable k).keyValid = s.keyValid := rfl
@[simp] theorem commitTable_sTable (s : State) (k : RoundKeys) : (s.commitTable k).sTable = k := rfl
@[simp] theorem commitTable_sValid (s : State) (k : RoundKeys) : (s.commitTable k).sValid = true := rfl
@[simp] theorem commitTable_inlen (s : State) (k : RoundKeys) : (s.commitTable k).inlen = s.inlen := rfl
@[simp] theorem commitTable_outlen (s : State) (k : RoundKeys) : (s.commitTable k).outlen = s.outlen := rfl
@[simp] theorem commitTable_inBuf (s : State) (k : RoundKeys) : (s.commitTable k).inBuf = s.inBuf := rfl
@[simp] theorem commitTable_outBuf (s : State) (k : RoundKeys) : (s.commitTable k).outBuf = s.outBuf := rfl
@[simp] theorem commitTable_ie (s : State) (k : RoundKeys) : (s.commitTable k).ie = s.ie := rfl
@[simp] theorem commitTable_done (s : State) (k : RoundKeys) : (s.commitTable k).done = s.done := rfl
@[simp] theorem commitTable_textOk (s : State) (k : RoundKeys) : (s.commitTable k).textOk = s.textOk := rfl
@[simp] theorem commitTable_accErr (s : State) (k : RoundKeys) : (s.commitTable k).accErr = s.accErr := rfl
@[simp] theorem commitTable_err (s : State) (k : RoundKeys) : (s.commitTable k).err = s.err := rfl
@[simp] theorem commitTable_fmt (s : State) (k : RoundKeys) : (s.commitTable k).fmt = s.fmt := rfl
@[simp] theorem commitTable_pending (s : State) (k : RoundKeys) : (s.commitTable k).pending = s.pending := rfl
@[simp] theorem commitTable_schedule (s : State) (k : RoundKeys) : (s.commitTable k).schedule = s.schedule := rfl
@[simp] theorem commitTable_hostReads (s : State) (k : RoundKeys) : (s.commitTable k).hostReads = s.hostReads := rfl
@[simp] theorem commitTable_draws (s : State) (k : RoundKeys) : (s.commitTable k).draws = s.draws := rfl
@[simp] theorem commitTable_powerCycle (s : State) (k : RoundKeys) : (s.commitTable k).powerCycle = s.powerCycle := rfl

/-! ### `commitData` -/

@[simp] theorem commitData_cfg (s : State) (ab : Word × Word) : (s.commitData ab).cfg = s.cfg := rfl
@[simp] theorem commitData_dataA (s : State) (ab : Word × Word) : (s.commitData ab).dataA = ab.1 := rfl
@[simp] theorem commitData_dataB (s : State) (ab : Word × Word) : (s.commitData ab).dataB = ab.2 := rfl
@[simp] theorem commitData_key (s : State) (ab : Word × Word) : (s.commitData ab).key = s.key := rfl
@[simp] theorem commitData_keyValid (s : State) (ab : Word × Word) : (s.commitData ab).keyValid = s.keyValid := rfl
@[simp] theorem commitData_sTable (s : State) (ab : Word × Word) : (s.commitData ab).sTable = s.sTable := rfl
@[simp] theorem commitData_sValid (s : State) (ab : Word × Word) : (s.commitData ab).sValid = s.sValid := rfl
@[simp] theorem commitData_inlen (s : State) (ab : Word × Word) : (s.commitData ab).inlen = s.inlen := rfl
@[simp] theorem commitData_outlen (s : State) (ab : Word × Word) : (s.commitData ab).outlen = s.outlen := rfl
@[simp] theorem commitData_inBuf (s : State) (ab : Word × Word) : (s.commitData ab).inBuf = s.inBuf := rfl
@[simp] theorem commitData_outBuf (s : State) (ab : Word × Word) : (s.commitData ab).outBuf = s.outBuf := rfl
@[simp] theorem commitData_ie (s : State) (ab : Word × Word) : (s.commitData ab).ie = s.ie := rfl
@[simp] theorem commitData_done (s : State) (ab : Word × Word) : (s.commitData ab).done = s.done := rfl
@[simp] theorem commitData_textOk (s : State) (ab : Word × Word) : (s.commitData ab).textOk = s.textOk := rfl
@[simp] theorem commitData_accErr (s : State) (ab : Word × Word) : (s.commitData ab).accErr = s.accErr := rfl
@[simp] theorem commitData_err (s : State) (ab : Word × Word) : (s.commitData ab).err = s.err := rfl
@[simp] theorem commitData_fmt (s : State) (ab : Word × Word) : (s.commitData ab).fmt = s.fmt := rfl
@[simp] theorem commitData_pending (s : State) (ab : Word × Word) : (s.commitData ab).pending = s.pending := rfl
@[simp] theorem commitData_schedule (s : State) (ab : Word × Word) : (s.commitData ab).schedule = s.schedule := rfl
@[simp] theorem commitData_hostReads (s : State) (ab : Word × Word) : (s.commitData ab).hostReads = s.hostReads := rfl
@[simp] theorem commitData_draws (s : State) (ab : Word × Word) : (s.commitData ab).draws = s.draws := rfl
@[simp] theorem commitData_powerCycle (s : State) (ab : Word × Word) : (s.commitData ab).powerCycle = s.powerCycle := rfl

/-! ### `commitOut` -/

@[simp] theorem commitOut_cfg (s : State) (o : List Byte) : (s.commitOut o).cfg = s.cfg := rfl
@[simp] theorem commitOut_dataA (s : State) (o : List Byte) : (s.commitOut o).dataA = s.dataA := rfl
@[simp] theorem commitOut_dataB (s : State) (o : List Byte) : (s.commitOut o).dataB = s.dataB := rfl
@[simp] theorem commitOut_key (s : State) (o : List Byte) : (s.commitOut o).key = s.key := rfl
@[simp] theorem commitOut_keyValid (s : State) (o : List Byte) : (s.commitOut o).keyValid = s.keyValid := rfl
@[simp] theorem commitOut_sTable (s : State) (o : List Byte) : (s.commitOut o).sTable = s.sTable := rfl
@[simp] theorem commitOut_sValid (s : State) (o : List Byte) : (s.commitOut o).sValid = s.sValid := rfl
@[simp] theorem commitOut_inlen (s : State) (o : List Byte) : (s.commitOut o).inlen = s.inlen := rfl
@[simp] theorem commitOut_outlen (s : State) (o : List Byte) : (s.commitOut o).outlen = BitVec.ofNat 32 o.length := rfl
@[simp] theorem commitOut_inBuf (s : State) (o : List Byte) : (s.commitOut o).inBuf = s.inBuf := rfl
@[simp] theorem commitOut_outBuf (s : State) (o : List Byte) : (s.commitOut o).outBuf = s.outBuf.putBytes 0 o := rfl
@[simp] theorem commitOut_ie (s : State) (o : List Byte) : (s.commitOut o).ie = s.ie := rfl
@[simp] theorem commitOut_done (s : State) (o : List Byte) : (s.commitOut o).done = s.done := rfl
@[simp] theorem commitOut_textOk (s : State) (o : List Byte) : (s.commitOut o).textOk = s.textOk := rfl
@[simp] theorem commitOut_accErr (s : State) (o : List Byte) : (s.commitOut o).accErr = s.accErr := rfl
@[simp] theorem commitOut_err (s : State) (o : List Byte) : (s.commitOut o).err = s.err := rfl
@[simp] theorem commitOut_fmt (s : State) (o : List Byte) : (s.commitOut o).fmt = s.fmt := rfl
@[simp] theorem commitOut_pending (s : State) (o : List Byte) : (s.commitOut o).pending = s.pending := rfl
@[simp] theorem commitOut_schedule (s : State) (o : List Byte) : (s.commitOut o).schedule = s.schedule := rfl
@[simp] theorem commitOut_hostReads (s : State) (o : List Byte) : (s.commitOut o).hostReads = s.hostReads := rfl
@[simp] theorem commitOut_draws (s : State) (o : List Byte) : (s.commitOut o).draws = s.draws := rfl
@[simp] theorem commitOut_powerCycle (s : State) (o : List Byte) : (s.commitOut o).powerCycle = s.powerCycle := rfl

/-! ### `accept` -/

@[simp] theorem accept_cfg (s : State) (w : Word) : (s.accept w).cfg = s.cfg := rfl
@[simp] theorem accept_dataA (s : State) (w : Word) : (s.accept w).dataA = s.dataA := rfl
@[simp] theorem accept_dataB (s : State) (w : Word) : (s.accept w).dataB = s.dataB := rfl
@[simp] theorem accept_key (s : State) (w : Word) : (s.accept w).key = s.key := rfl
@[simp] theorem accept_keyValid (s : State) (w : Word) : (s.accept w).keyValid = s.keyValid := rfl
@[simp] theorem accept_sTable (s : State) (w : Word) : (s.accept w).sTable = s.sTable := rfl
@[simp] theorem accept_sValid (s : State) (w : Word) : (s.accept w).sValid = s.sValid := rfl
@[simp] theorem accept_inlen (s : State) (w : Word) : (s.accept w).inlen = s.inlen := rfl
@[simp] theorem accept_outlen (s : State) (w : Word) : (s.accept w).outlen = s.outlen := rfl
@[simp] theorem accept_inBuf (s : State) (w : Word) : (s.accept w).inBuf = s.inBuf := rfl
@[simp] theorem accept_outBuf (s : State) (w : Word) : (s.accept w).outBuf = s.outBuf := rfl
@[simp] theorem accept_ie (s : State) (w : Word) : (s.accept w).ie = s.ie := rfl
@[simp] theorem accept_done (s : State) (w : Word) : (s.accept w).done = false := rfl
@[simp] theorem accept_textOk (s : State) (w : Word) : (s.accept w).textOk = false := rfl
@[simp] theorem accept_accErr (s : State) (w : Word) : (s.accept w).accErr = s.accErr := rfl
@[simp] theorem accept_err (s : State) (w : Word) : (s.accept w).err = .ok := rfl
@[simp] theorem accept_fmt (s : State) (w : Word) : (s.accept w).fmt = .none := rfl
@[simp] theorem accept_pending (s : State) (w : Word) : (s.accept w).pending = some { cmd := w, inputs := s.snapshot } := rfl
@[simp] theorem accept_schedule (s : State) (w : Word) : (s.accept w).schedule = s.schedule := rfl
@[simp] theorem accept_hostReads (s : State) (w : Word) : (s.accept w).hostReads = s.hostReads := rfl
@[simp] theorem accept_draws (s : State) (w : Word) : (s.accept w).draws = s.draws := rfl
@[simp] theorem accept_powerCycle (s : State) (w : Word) : (s.accept w).powerCycle = s.powerCycle := rfl

/-! ### `writeStatus` -/

@[simp] theorem writeStatus_cfg (s : State) (v : Word) : (s.writeStatus v).cfg = s.cfg := rfl
@[simp] theorem writeStatus_dataA (s : State) (v : Word) : (s.writeStatus v).dataA = s.dataA := rfl
@[simp] theorem writeStatus_dataB (s : State) (v : Word) : (s.writeStatus v).dataB = s.dataB := rfl
@[simp] theorem writeStatus_key (s : State) (v : Word) : (s.writeStatus v).key = s.key := rfl
@[simp] theorem writeStatus_keyValid (s : State) (v : Word) : (s.writeStatus v).keyValid = s.keyValid := rfl
@[simp] theorem writeStatus_sTable (s : State) (v : Word) : (s.writeStatus v).sTable = s.sTable := rfl
@[simp] theorem writeStatus_sValid (s : State) (v : Word) : (s.writeStatus v).sValid = s.sValid := rfl
@[simp] theorem writeStatus_inlen (s : State) (v : Word) : (s.writeStatus v).inlen = s.inlen := rfl
@[simp] theorem writeStatus_outlen (s : State) (v : Word) : (s.writeStatus v).outlen = s.outlen := rfl
@[simp] theorem writeStatus_inBuf (s : State) (v : Word) : (s.writeStatus v).inBuf = s.inBuf := rfl
@[simp] theorem writeStatus_outBuf (s : State) (v : Word) : (s.writeStatus v).outBuf = s.outBuf := rfl
@[simp] theorem writeStatus_ie (s : State) (v : Word) : (s.writeStatus v).ie = s.ie := rfl
@[simp] theorem writeStatus_done (s : State) (v : Word) : (s.writeStatus v).done = (s.done && !v.getLsbD 1) := rfl
@[simp] theorem writeStatus_textOk (s : State) (v : Word) : (s.writeStatus v).textOk = s.textOk := rfl
@[simp] theorem writeStatus_accErr (s : State) (v : Word) : (s.writeStatus v).accErr = (s.accErr && !v.getLsbD 5) := rfl
@[simp] theorem writeStatus_err (s : State) (v : Word) : (s.writeStatus v).err = s.err := rfl
@[simp] theorem writeStatus_fmt (s : State) (v : Word) : (s.writeStatus v).fmt = s.fmt := rfl
@[simp] theorem writeStatus_pending (s : State) (v : Word) : (s.writeStatus v).pending = s.pending := rfl
@[simp] theorem writeStatus_schedule (s : State) (v : Word) : (s.writeStatus v).schedule = s.schedule := rfl
@[simp] theorem writeStatus_hostReads (s : State) (v : Word) : (s.writeStatus v).hostReads = s.hostReads := rfl
@[simp] theorem writeStatus_draws (s : State) (v : Word) : (s.writeStatus v).draws = s.draws := rfl
@[simp] theorem writeStatus_powerCycle (s : State) (v : Word) : (s.writeStatus v).powerCycle = s.powerCycle := rfl

/-! ### `markAccErr` -/

@[simp] theorem markAccErr_cfg (s : State) : (s.markAccErr).cfg = s.cfg := rfl
@[simp] theorem markAccErr_dataA (s : State) : (s.markAccErr).dataA = s.dataA := rfl
@[simp] theorem markAccErr_dataB (s : State) : (s.markAccErr).dataB = s.dataB := rfl
@[simp] theorem markAccErr_key (s : State) : (s.markAccErr).key = s.key := rfl
@[simp] theorem markAccErr_keyValid (s : State) : (s.markAccErr).keyValid = s.keyValid := rfl
@[simp] theorem markAccErr_sTable (s : State) : (s.markAccErr).sTable = s.sTable := rfl
@[simp] theorem markAccErr_sValid (s : State) : (s.markAccErr).sValid = s.sValid := rfl
@[simp] theorem markAccErr_inlen (s : State) : (s.markAccErr).inlen = s.inlen := rfl
@[simp] theorem markAccErr_outlen (s : State) : (s.markAccErr).outlen = s.outlen := rfl
@[simp] theorem markAccErr_inBuf (s : State) : (s.markAccErr).inBuf = s.inBuf := rfl
@[simp] theorem markAccErr_outBuf (s : State) : (s.markAccErr).outBuf = s.outBuf := rfl
@[simp] theorem markAccErr_ie (s : State) : (s.markAccErr).ie = s.ie := rfl
@[simp] theorem markAccErr_done (s : State) : (s.markAccErr).done = s.done := rfl
@[simp] theorem markAccErr_textOk (s : State) : (s.markAccErr).textOk = s.textOk := rfl
@[simp] theorem markAccErr_accErr (s : State) : (s.markAccErr).accErr = true := rfl
@[simp] theorem markAccErr_err (s : State) : (s.markAccErr).err = s.err := rfl
@[simp] theorem markAccErr_fmt (s : State) : (s.markAccErr).fmt = s.fmt := rfl
@[simp] theorem markAccErr_pending (s : State) : (s.markAccErr).pending = s.pending := rfl
@[simp] theorem markAccErr_schedule (s : State) : (s.markAccErr).schedule = s.schedule := rfl
@[simp] theorem markAccErr_hostReads (s : State) : (s.markAccErr).hostReads = s.hostReads := rfl
@[simp] theorem markAccErr_draws (s : State) : (s.markAccErr).draws = s.draws := rfl
@[simp] theorem markAccErr_powerCycle (s : State) : (s.markAccErr).powerCycle = s.powerCycle := rfl

/-! ### `softReset` -/

@[simp] theorem softReset_cfg (s : State) : (s.softReset).cfg = s.cfg := rfl
@[simp] theorem softReset_dataA (s : State) : (s.softReset).dataA = 0 := rfl
@[simp] theorem softReset_dataB (s : State) : (s.softReset).dataB = 0 := rfl
@[simp] theorem softReset_key (s : State) : (s.softReset).key = Vector.replicate 16 0 := rfl
@[simp] theorem softReset_keyValid (s : State) : (s.softReset).keyValid = false := rfl
@[simp] theorem softReset_sTable (s : State) : (s.softReset).sTable = s.sTable := rfl
@[simp] theorem softReset_sValid (s : State) : (s.softReset).sValid = false := rfl
@[simp] theorem softReset_inlen (s : State) : (s.softReset).inlen = 0 := rfl
@[simp] theorem softReset_outlen (s : State) : (s.softReset).outlen = 0 := rfl
@[simp] theorem softReset_inBuf (s : State) : (s.softReset).inBuf = s.inBuf := rfl
@[simp] theorem softReset_outBuf (s : State) : (s.softReset).outBuf = s.outBuf := rfl
@[simp] theorem softReset_ie (s : State) : (s.softReset).ie = false := rfl
@[simp] theorem softReset_done (s : State) : (s.softReset).done = false := rfl
@[simp] theorem softReset_textOk (s : State) : (s.softReset).textOk = false := rfl
@[simp] theorem softReset_accErr (s : State) : (s.softReset).accErr = false := rfl
@[simp] theorem softReset_err (s : State) : (s.softReset).err = .ok := rfl
@[simp] theorem softReset_fmt (s : State) : (s.softReset).fmt = .none := rfl
@[simp] theorem softReset_pending (s : State) : (s.softReset).pending = none := rfl
@[simp] theorem softReset_schedule (s : State) : (s.softReset).schedule = s.schedule := rfl
@[simp] theorem softReset_hostReads (s : State) : (s.softReset).hostReads = s.hostReads := rfl
@[simp] theorem softReset_draws (s : State) : (s.softReset).draws = s.draws := rfl
@[simp] theorem softReset_powerCycle (s : State) : (s.softReset).powerCycle = s.powerCycle := rfl

/-! ### `powerOnReset` -/

@[simp] theorem powerOnReset_cfg (s : State) : (s.powerOnReset).cfg = s.cfg := rfl
@[simp] theorem powerOnReset_dataA (s : State) : (s.powerOnReset).dataA = 0 := rfl
@[simp] theorem powerOnReset_dataB (s : State) : (s.powerOnReset).dataB = 0 := rfl
@[simp] theorem powerOnReset_key (s : State) : (s.powerOnReset).key = Vector.replicate 16 0 := rfl
@[simp] theorem powerOnReset_keyValid (s : State) : (s.powerOnReset).keyValid = false := rfl
@[simp] theorem powerOnReset_sTable (s : State) : (s.powerOnReset).sTable = powerOnTable (s.powerCycle + 1) := rfl
@[simp] theorem powerOnReset_sValid (s : State) : (s.powerOnReset).sValid = false := rfl
@[simp] theorem powerOnReset_inlen (s : State) : (s.powerOnReset).inlen = 0 := rfl
@[simp] theorem powerOnReset_outlen (s : State) : (s.powerOnReset).outlen = 0 := rfl
@[simp] theorem powerOnReset_inBuf (s : State) : (s.powerOnReset).inBuf = [] := rfl
@[simp] theorem powerOnReset_outBuf (s : State) : (s.powerOnReset).outBuf = [] := rfl
@[simp] theorem powerOnReset_ie (s : State) : (s.powerOnReset).ie = false := rfl
@[simp] theorem powerOnReset_done (s : State) : (s.powerOnReset).done = false := rfl
@[simp] theorem powerOnReset_textOk (s : State) : (s.powerOnReset).textOk = false := rfl
@[simp] theorem powerOnReset_accErr (s : State) : (s.powerOnReset).accErr = false := rfl
@[simp] theorem powerOnReset_err (s : State) : (s.powerOnReset).err = .ok := rfl
@[simp] theorem powerOnReset_fmt (s : State) : (s.powerOnReset).fmt = .none := rfl
@[simp] theorem powerOnReset_pending (s : State) : (s.powerOnReset).pending = none := rfl
@[simp] theorem powerOnReset_schedule (s : State) : (s.powerOnReset).schedule = s.schedule := rfl
@[simp] theorem powerOnReset_hostReads (s : State) : (s.powerOnReset).hostReads = s.hostReads := rfl
@[simp] theorem powerOnReset_draws (s : State) : (s.powerOnReset).draws = s.draws := rfl
@[simp] theorem powerOnReset_powerCycle (s : State) : (s.powerOnReset).powerCycle = s.powerCycle + 1 := rfl

/-! ### `advance` -/

@[simp] theorem advance_cfg (s : State) (rest : List Event) : (s.advance rest).cfg = s.cfg := rfl
@[simp] theorem advance_dataA (s : State) (rest : List Event) : (s.advance rest).dataA = s.dataA := rfl
@[simp] theorem advance_dataB (s : State) (rest : List Event) : (s.advance rest).dataB = s.dataB := rfl
@[simp] theorem advance_key (s : State) (rest : List Event) : (s.advance rest).key = s.key := rfl
@[simp] theorem advance_keyValid (s : State) (rest : List Event) : (s.advance rest).keyValid = s.keyValid := rfl
@[simp] theorem advance_sTable (s : State) (rest : List Event) : (s.advance rest).sTable = s.sTable := rfl
@[simp] theorem advance_sValid (s : State) (rest : List Event) : (s.advance rest).sValid = s.sValid := rfl
@[simp] theorem advance_inlen (s : State) (rest : List Event) : (s.advance rest).inlen = s.inlen := rfl
@[simp] theorem advance_outlen (s : State) (rest : List Event) : (s.advance rest).outlen = s.outlen := rfl
@[simp] theorem advance_inBuf (s : State) (rest : List Event) : (s.advance rest).inBuf = s.inBuf := rfl
@[simp] theorem advance_outBuf (s : State) (rest : List Event) : (s.advance rest).outBuf = s.outBuf := rfl
@[simp] theorem advance_ie (s : State) (rest : List Event) : (s.advance rest).ie = s.ie := rfl
@[simp] theorem advance_done (s : State) (rest : List Event) : (s.advance rest).done = s.done := rfl
@[simp] theorem advance_textOk (s : State) (rest : List Event) : (s.advance rest).textOk = s.textOk := rfl
@[simp] theorem advance_accErr (s : State) (rest : List Event) : (s.advance rest).accErr = s.accErr := rfl
@[simp] theorem advance_err (s : State) (rest : List Event) : (s.advance rest).err = s.err := rfl
@[simp] theorem advance_fmt (s : State) (rest : List Event) : (s.advance rest).fmt = s.fmt := rfl
@[simp] theorem advance_pending (s : State) (rest : List Event) : (s.advance rest).pending = s.pending := rfl
@[simp] theorem advance_schedule (s : State) (rest : List Event) : (s.advance rest).schedule = rest := rfl
@[simp] theorem advance_hostReads (s : State) (rest : List Event) : (s.advance rest).hostReads = s.hostReads := rfl
@[simp] theorem advance_draws (s : State) (rest : List Event) : (s.advance rest).draws = s.draws := rfl
@[simp] theorem advance_powerCycle (s : State) (rest : List Event) : (s.advance rest).powerCycle = s.powerCycle := rfl

/-! ### Host reads -/


@[simp] theorem hostRead_cfg (s : State) (off : Nat) : (hostRead s off).cfg = s.cfg := rfl
@[simp] theorem hostRead_dataA (s : State) (off : Nat) : (hostRead s off).dataA = s.dataA := rfl
@[simp] theorem hostRead_dataB (s : State) (off : Nat) : (hostRead s off).dataB = s.dataB := rfl
@[simp] theorem hostRead_key (s : State) (off : Nat) : (hostRead s off).key = s.key := rfl
@[simp] theorem hostRead_keyValid (s : State) (off : Nat) : (hostRead s off).keyValid = s.keyValid := rfl
@[simp] theorem hostRead_sTable (s : State) (off : Nat) : (hostRead s off).sTable = s.sTable := rfl
@[simp] theorem hostRead_sValid (s : State) (off : Nat) : (hostRead s off).sValid = s.sValid := rfl
@[simp] theorem hostRead_inlen (s : State) (off : Nat) : (hostRead s off).inlen = s.inlen := rfl
@[simp] theorem hostRead_outlen (s : State) (off : Nat) : (hostRead s off).outlen = s.outlen := rfl
@[simp] theorem hostRead_inBuf (s : State) (off : Nat) : (hostRead s off).inBuf = s.inBuf := rfl
@[simp] theorem hostRead_outBuf (s : State) (off : Nat) : (hostRead s off).outBuf = s.outBuf := rfl
@[simp] theorem hostRead_ie (s : State) (off : Nat) : (hostRead s off).ie = s.ie := rfl
@[simp] theorem hostRead_done (s : State) (off : Nat) : (hostRead s off).done = s.done := rfl
@[simp] theorem hostRead_textOk (s : State) (off : Nat) : (hostRead s off).textOk = s.textOk := rfl
@[simp] theorem hostRead_accErr (s : State) (off : Nat) : (hostRead s off).accErr = s.accErr := rfl
@[simp] theorem hostRead_err (s : State) (off : Nat) : (hostRead s off).err = s.err := rfl
@[simp] theorem hostRead_fmt (s : State) (off : Nat) : (hostRead s off).fmt = s.fmt := rfl
@[simp] theorem hostRead_pending (s : State) (off : Nat) : (hostRead s off).pending = s.pending := rfl
@[simp] theorem hostRead_schedule (s : State) (off : Nat) : (hostRead s off).schedule = s.schedule := rfl
@[simp] theorem hostRead_hostReads (s : State) (off : Nat) : (hostRead s off).hostReads = (off, readData s off) :: s.hostReads := rfl
@[simp] theorem hostRead_draws (s : State) (off : Nat) : (hostRead s off).draws = if readsDraw s off then s.draws + 1 else s.draws := rfl
@[simp] theorem hostRead_powerCycle (s : State) (off : Nat) : (hostRead s off).powerCycle = s.powerCycle := rfl

/-! ### The captured inputs -/

@[simp] theorem snapshot_key (s : State) : s.snapshot.key = s.key := rfl
@[simp] theorem snapshot_keyValid (s : State) : s.snapshot.keyValid = s.keyValid := rfl
@[simp] theorem snapshot_sTable (s : State) : s.snapshot.sTable = s.sTable := rfl
@[simp] theorem snapshot_sValid (s : State) : s.snapshot.sValid = s.sValid := rfl
@[simp] theorem snapshot_inlen (s : State) : s.snapshot.inlen = s.inlen := rfl
@[simp] theorem snapshot_inBuf (s : State) : s.snapshot.inBuf = s.inBuf := rfl
@[simp] theorem snapshot_dataA (s : State) : s.snapshot.dataA = s.dataA := rfl
@[simp] theorem snapshot_dataB (s : State) : s.snapshot.dataB = s.dataB := rfl

theorem operands_of_pending (s : State) (p : Pending) (h : s.pending = some p) : s.operands = p.inputs := by
  simp [operands, h]

theorem operands_of_idle (s : State) (h : s.pending = none) : s.operands = s.snapshot := by
  simp [operands, h]

@[simp] theorem accept_operands (s : State) (w : Word) : (s.accept w).operands = s.snapshot := rfl
@[simp] theorem accept_busy (s : State) (w : Word) : (s.accept w).busy = true := rfl
@[simp] theorem finish_busy (s : State) (e : ErrCode) (f : Fmt) (x : Bool) : (s.finish e f x).busy = false := rfl
@[simp] theorem raise_busy (s : State) (e : ErrCode) (f : Fmt) : (s.raise e f).busy = false := rfl
@[simp] theorem succeed_busy (s : State) (f : Fmt) (x : Bool) : (s.succeed f x).busy = false := rfl
@[simp] theorem advance_operands (s : State) (rest : List Event) : (s.advance rest).operands = s.operands := rfl

theorem busy_false_iff (s : State) : s.busy = false ↔ s.pending = none := by
  cases h : s.pending <;> simp [busy, h]

end Sys2Proof.Machine.State
end

