-- ==== Sys2Proof/Laws/Ops.lean ====
section
/-! SUPPORT. What the shared operations can do, said once each: a guard either raises or runs its body; every command
answers a next state, which is one of a few shapes (`exec_shape`); a step is one of a few events (`step_cases`). -/

namespace Sys2Proof.Machine

/-! ### Guards -/

theorem checkInput_ok {s : State} {body : Result} (h : s.operands.inlen.toNat ≤ s.cfg.bufBytes) :
    checkInput s body = body := by
  simp [checkInput, Nat.not_lt.mpr h]

theorem checkInput_overflow {s : State} {body : Result} (h : s.cfg.bufBytes < s.operands.inlen.toNat) :
    checkInput s body = .next (s.raise .overflow .none) := by
  simp [checkInput, h]

theorem withInput_ok {s : State} {body : List Byte → Result} (h : s.operands.inlen.toNat ≤ s.cfg.bufBytes) :
    withInput s body = body s.message := checkInput_ok h

theorem withInput_overflow {s : State} {body : List Byte → Result} (h : s.cfg.bufBytes < s.operands.inlen.toNat) :
    withInput s body = .next (s.raise .overflow .none) := checkInput_overflow h

theorem requireKey_ok {s : State} {body : Result} (h : s.operands.keyValid = true) : requireKey s body = body := by
  simp [requireKey, h]

theorem requireKey_noKey {s : State} {body : Result} (h : s.operands.keyValid = false) :
    requireKey s body = .next (s.raise .noKey .none) := by
  simp [requireKey, h]

theorem requireTable_ok {s : State} {body : Result} (h : s.operands.sValid = true) : requireTable s body = body := by
  simp [requireTable, h]

theorem requireTable_noKey {s : State} {body : Result} (h : s.operands.sValid = false) :
    requireTable s body = .next (s.raise .noKey .none) := by
  simp [requireTable, h]

theorem checkOutput_ok {s : State} {o : List Byte} {body : Result} (h : o.length ≤ s.cfg.bufBytes) :
    checkOutput s o body = body := by
  simp [checkOutput, Nat.not_lt.mpr h]

theorem checkOutput_overflow {s : State} {o : List Byte} {body : Result} (h : s.cfg.bufBytes < o.length) :
    checkOutput s o body = .next (s.raise .overflow .none) := by
  simp [checkOutput, h]

@[simp] theorem message_length (s : State) : s.message.length = s.operands.inlen.toNat := by
  simp [State.message, State.inputBytes, State.inputLen]

theorem message_getD (s : State) {a : Nat} (h : a < s.inputLen) : s.message.getD a 0 = s.operandByte a :=
  Memory.readBytes_getD _ _ _ _ _ h

/-- The input of a command is its bytes below INLEN and nothing else. -/
theorem message_congr {s s' : State} (hl : s.operands.inlen = s'.operands.inlen)
    (h : ∀ a, a < s.inputLen → s.operandByte a = s'.operandByte a) : s.message = s'.message := by
  have hlen : s.inputLen = s'.inputLen := by simp [State.inputLen, hl]
  simp only [State.message, ← hlen]
  exact Memory.readBytes_congr _ _ _ _ _ _ h

/-! ### The frames of the updates

Each frame predicate sees through the updates that do not touch what it speaks of. -/

@[simp] theorem sameKey_succeed (s t : State) (f : Fmt) (x : Bool) : SameKey s (t.succeed f x) ↔ SameKey s t := Iff.rfl
@[simp] theorem sameKey_commitTable (s t : State) (k : RoundKeys) : SameKey s (t.commitTable k) ↔ SameKey s t := Iff.rfl
@[simp] theorem sameKey_commitData (s t : State) (ab : Word × Word) : SameKey s (t.commitData ab) ↔ SameKey s t := Iff.rfl
@[simp] theorem sameKey_commitOut (s t : State) (o : List Byte) : SameKey s (t.commitOut o) ↔ SameKey s t := Iff.rfl
@[simp] theorem sameKey_accept (s t : State) (w : Word) : SameKey s (t.accept w) ↔ SameKey s t := Iff.rfl

@[simp] theorem sameTable_succeed (s t : State) (f : Fmt) (x : Bool) : SameTable s (t.succeed f x) ↔ SameTable s t := Iff.rfl
@[simp] theorem sameTable_commitData (s t : State) (ab : Word × Word) : SameTable s (t.commitData ab) ↔ SameTable s t := Iff.rfl
@[simp] theorem sameTable_commitOut (s t : State) (o : List Byte) : SameTable s (t.commitOut o) ↔ SameTable s t := Iff.rfl
@[simp] theorem sameTable_accept (s t : State) (w : Word) : SameTable s (t.accept w) ↔ SameTable s t := Iff.rfl

@[simp] theorem sameData_succeed (s t : State) (f : Fmt) (x : Bool) : SameData s (t.succeed f x) ↔ SameData s t := Iff.rfl
@[simp] theorem sameData_commitKey (s t : State) (k : WorkingKey) : SameData s (t.commitKey k) ↔ SameData s t := Iff.rfl
@[simp] theorem sameData_commitTable (s t : State) (k : RoundKeys) : SameData s (t.commitTable k) ↔ SameData s t := Iff.rfl
@[simp] theorem sameData_commitOut (s t : State) (o : List Byte) : SameData s (t.commitOut o) ↔ SameData s t := Iff.rfl
@[simp] theorem sameData_accept (s t : State) (w : Word) : SameData s (t.accept w) ↔ SameData s t := Iff.rfl

@[simp] theorem sameOut_succeed (s t : State) (f : Fmt) (x : Bool) : SameOut s (t.succeed f x) ↔ SameOut s t := Iff.rfl
@[simp] theorem sameOut_commitKey (s t : State) (k : WorkingKey) : SameOut s (t.commitKey k) ↔ SameOut s t := Iff.rfl
@[simp] theorem sameOut_commitTable (s t : State) (k : RoundKeys) : SameOut s (t.commitTable k) ↔ SameOut s t := Iff.rfl
@[simp] theorem sameOut_commitData (s t : State) (ab : Word × Word) : SameOut s (t.commitData ab) ↔ SameOut s t := Iff.rfl
@[simp] theorem sameOut_accept (s t : State) (w : Word) : SameOut s (t.accept w) ↔ SameOut s t := Iff.rfl

@[simp] theorem sameSetup_succeed (s t : State) (f : Fmt) (x : Bool) : SameSetup s (t.succeed f x) ↔ SameSetup s t := Iff.rfl
@[simp] theorem sameSetup_commitKey (s t : State) (k : WorkingKey) : SameSetup s (t.commitKey k) ↔ SameSetup s t := Iff.rfl
@[simp] theorem sameSetup_commitTable (s t : State) (k : RoundKeys) : SameSetup s (t.commitTable k) ↔ SameSetup s t := Iff.rfl
@[simp] theorem sameSetup_commitData (s t : State) (ab : Word × Word) : SameSetup s (t.commitData ab) ↔ SameSetup s t := Iff.rfl
@[simp] theorem sameSetup_commitOut (s t : State) (o : List Byte) : SameSetup s (t.commitOut o) ↔ SameSetup s t := Iff.rfl
@[simp] theorem sameSetup_accept (s t : State) (w : Word) : SameSetup s (t.accept w) ↔ SameSetup s t := Iff.rfl

@[simp] theorem wroteOut_succeed (s t : State) (f : Fmt) (x : Bool) (o : List Byte) : WroteOut s (t.succeed f x) o ↔ WroteOut s t o := Iff.rfl
@[simp] theorem wroteOut_commitTable (s t : State) (k : RoundKeys) (o : List Byte) : WroteOut s (t.commitTable k) o ↔ WroteOut s t o := Iff.rfl
@[simp] theorem wroteOut_commitKey (s t : State) (k : WorkingKey) (o : List Byte) : WroteOut s (t.commitKey k) o ↔ WroteOut s t o := Iff.rfl
@[simp] theorem wroteOut_commitData (s t : State) (ab : Word × Word) (o : List Byte) : WroteOut s (t.commitData ab) o ↔ WroteOut s t o := Iff.rfl
@[simp] theorem wroteTable_succeed (t : State) (f : Fmt) (x : Bool) (k : RoundKeys) : WroteTable (t.succeed f x) k ↔ WroteTable t k := Iff.rfl
@[simp] theorem wroteTable_commitOut (t : State) (o : List Byte) (k : RoundKeys) : WroteTable (t.commitOut o) k ↔ WroteTable t k := Iff.rfl
@[simp] theorem wroteTable_commitData (t : State) (ab : Word × Word) (k : RoundKeys) : WroteTable (t.commitData ab) k ↔ WroteTable t k := Iff.rfl
@[simp] theorem wroteTable_commitTable (t : State) (k : RoundKeys) : WroteTable (t.commitTable k) k := ⟨rfl, rfl⟩
@[simp] theorem sameKey_refl (s : State) : SameKey s s := ⟨rfl, rfl⟩
@[simp] theorem sameTable_refl (s : State) : SameTable s s := ⟨rfl, rfl⟩
@[simp] theorem sameData_refl (s : State) : SameData s s := ⟨rfl, rfl⟩
@[simp] theorem sameOut_refl (s : State) : SameOut s s := ⟨rfl, fun _ => rfl⟩
@[simp] theorem sameSetup_refl (s : State) : SameSetup s s :=
  ⟨rfl, fun _ => rfl, rfl, rfl, rfl, rfl, rfl, rfl, rfl⟩

/-- `raise` changes the completion fields only. -/
theorem raised_raise (s : State) (e : ErrCode) (f : Fmt) : Raised (.next (s.raise e f)) s e f :=
  ⟨s.raise e f, rfl, ⟨rfl, rfl, rfl, rfl, rfl, rfl⟩, ⟨rfl, rfl⟩, ⟨rfl, rfl⟩, ⟨rfl, rfl⟩, ⟨rfl, fun _ => rfl⟩,
    sameSetup_refl s⟩

@[simp] theorem ended_succeed (s : State) (f : Fmt) (x : Bool) : Ended (s.succeed f x) .ok f x :=
  ⟨rfl, rfl, rfl, rfl, rfl, rfl⟩

/-- `commitOut` writes exactly its bytes. -/
theorem wroteOut_commitOut_of (s t : State) (o : List Byte) (hb : t.outBuf = s.outBuf)
    (hc : t.powerCycle = s.powerCycle) : WroteOut s (t.commitOut o) o := by
  refine ⟨rfl, fun a ha => ?_, fun a ha => ?_⟩
  · have h := Memory.byteAt_putBytes_inside t.outBuf .outBuf t.powerCycle 0 a o ha
    simpa [State.outByte] using h
  · have h := Memory.byteAt_putBytes_outside t.outBuf .outBuf t.powerCycle 0 a o (Or.inr (by simpa using ha))
    rw [hb, hc] at h
    simpa [State.outByte, hb, hc] using h

@[simp] theorem wroteOut_commitOut (s : State) (o : List Byte) : WroteOut s (s.commitOut o) o :=
  wroteOut_commitOut_of s s o rfl rfl

@[simp] theorem wroteOut_commitTable_commitOut (s : State) (k : RoundKeys) (o : List Byte) :
    WroteOut s ((s.commitTable k).commitOut o) o := wroteOut_commitOut_of s _ o rfl rfl

/-! ### The message commands in the terms of Safety.lean -/

theorem encOutput_message (s : State) (f : OutFmt) : encOutput s f s.message = s.encText f := rfl

theorem decOutput_decSource (s : State) (auto nostrip : Bool) :
    decOutput s nostrip (s.decSource auto).2 = s.decText auto nostrip := rfl

/-! ### What a command can do -/

/-- The shapes of a command's end: an error, a success that commits nothing, or a success that commits what the
command's rule says. `o.length ≤ BUF_BYTES` holds for every output (R211; R146 for DEC). -/
inductive ExecShape (i : Instr) (s : State) : State → Prop where
  | raised (e : ErrCode) (f : Fmt) (he : e ≠ .ok) : ExecShape i s (s.raise e f)
  | plain (f : Fmt) (hi : i = .nop ∨ i = .detect) : ExecShape i s (s.succeed f false)
  | key (k : WorkingKey) (hi : i = .keySet) : ExecShape i s ((s.commitKey k).succeed .none false)
  | table (hi : i = .ksched) (hk : s.operands.keyValid = true) :
      ExecShape i s ((s.commitTable s.freshTable).succeed .none false)
  | data (ab : Word × Word) (hi : i = .encb ∨ i = .decb) (ht : s.operands.sValid = true) :
      ExecShape i s ((s.commitData ab).succeed .none false)
  | message (o : List Byte) (f : Fmt) (x : Bool)
      (hi : i ∈ [Instr.encHex, .encHexSep, .encB64, .encRaw, .decAuto, .decAutoNostrip, .decBytes, .decBytesNostrip])
      (hk : s.operands.keyValid = true) (ho : o.length ≤ s.cfg.bufBytes) :
      ExecShape i s (((s.commitTable s.freshTable).commitOut o).succeed f x)
  | helper (o : List Byte) (hi : i ∈ [Instr.hexEnc, .hexEncSep, .hexDec, .b64Enc, .b64Dec])
      (ho : o.length ≤ s.cfg.bufBytes) : ExecShape i s ((s.commitOut o).succeed .none false)

/-- A guarded result has a shape if its body has one. -/
theorem shape_checkInput {i : Instr} {s : State} {body : Result}
    (h : s.operands.inlen.toNat ≤ s.cfg.bufBytes → ∃ t, body = .next t ∧ ExecShape i s t) :
    ∃ t, checkInput s body = .next t ∧ ExecShape i s t := by
  by_cases hl : s.operands.inlen.toNat ≤ s.cfg.bufBytes
  · rw [checkInput_ok hl]
    exact h hl
  · rw [checkInput_overflow (Nat.lt_of_not_le hl)]
    exact ⟨_, rfl, .raised _ _ (by decide)⟩

theorem shape_withInput {i : Instr} {s : State} {body : List Byte → Result}
    (h : s.operands.inlen.toNat ≤ s.cfg.bufBytes → ∃ t, body s.message = .next t ∧ ExecShape i s t) :
    ∃ t, withInput s body = .next t ∧ ExecShape i s t := shape_checkInput h

theorem shape_requireKey {i : Instr} {s : State} {body : Result}
    (h : s.operands.keyValid = true → ∃ t, body = .next t ∧ ExecShape i s t) :
    ∃ t, requireKey s body = .next t ∧ ExecShape i s t := by
  cases hk : s.operands.keyValid with
  | true =>
    rw [requireKey_ok hk]
    exact h hk
  | false =>
    rw [requireKey_noKey hk]
    exact ⟨_, rfl, .raised _ _ (by decide)⟩

theorem shape_requireTable {i : Instr} {s : State} {body : Result}
    (h : s.operands.sValid = true → ∃ t, body = .next t ∧ ExecShape i s t) :
    ∃ t, requireTable s body = .next t ∧ ExecShape i s t := by
  cases hk : s.operands.sValid with
  | true =>
    rw [requireTable_ok hk]
    exact h hk
  | false =>
    rw [requireTable_noKey hk]
    exact ⟨_, rfl, .raised _ _ (by decide)⟩

theorem shape_checkOutput {i : Instr} {s : State} {o : List Byte} {body : Result}
    (h : o.length ≤ s.cfg.bufBytes → ∃ t, body = .next t ∧ ExecShape i s t) :
    ∃ t, checkOutput s o body = .next t ∧ ExecShape i s t := by
  by_cases hl : o.length ≤ s.cfg.bufBytes
  · rw [checkOutput_ok hl]
    exact h hl
  · rw [checkOutput_overflow (Nat.lt_of_not_le hl)]
    exact ⟨_, rfl, .raised _ _ (by decide)⟩

theorem shape_encMessage {i : Instr} {s : State} (f : OutFmt)
    (hi : i ∈ [Instr.encHex, .encHexSep, .encB64, .encRaw, .decAuto, .decAutoNostrip, .decBytes, .decBytesNostrip]) :
    ∃ t, encMessage f s = .next t ∧ ExecShape i s t :=
  shape_requireKey fun hk => shape_withInput fun _ => shape_checkOutput fun ho => ⟨_, rfl, .message _ _ _ hi hk ho⟩

theorem decOutput_length_le (s : State) (nostrip : Bool) (c : List Byte) :
    (decOutput s nostrip c).length ≤ c.length := by
  have h : (decBytes s.cfg.blockOrder s.freshTable c).length ≤ c.length := by
    rw [decBytes, mapBlocks_length]
    omega
  cases nostrip with
  | true => exact h
  | false => exact (unpad_length_le _).trans h

theorem shape_decCiphertext {i : Instr} {s : State} (f : Fmt) (nostrip : Bool) (c : List Byte)
    (hi : i ∈ [Instr.encHex, .encHexSep, .encB64, .encRaw, .decAuto, .decAutoNostrip, .decBytes, .decBytesNostrip])
    (hk : s.operands.keyValid = true) (hc : c.length ≤ s.cfg.bufBytes) :
    ∃ t, decCiphertext f nostrip c s = .next t ∧ ExecShape i s t := by
  unfold decCiphertext
  split
  · exact ⟨_, rfl, .raised _ _ (by decide)⟩
  · exact ⟨_, rfl, .message _ _ _ hi hk ((decOutput_length_le s nostrip c).trans hc)⟩

theorem shape_decMessage {i : Instr} {s : State} (f : InFmt) (nostrip : Bool)
    (hi : i ∈ [Instr.encHex, .encHexSep, .encB64, .encRaw, .decAuto, .decAutoNostrip, .decBytes, .decBytesNostrip]) :
    ∃ t, decMessage f nostrip s = .next t ∧ ExecShape i s t := by
  refine shape_requireKey fun hk => shape_withInput fun hl => ?_
  cases f with
  | bytes => exact shape_decCiphertext _ _ _ hi hk (by simpa using hl)
  | auto =>
    dsimp only
    split
    · exact ⟨_, rfl, .raised _ _ (by decide)⟩
    · refine shape_decCiphertext _ _ _ hi hk ?_
      have h := decodeInput_length_le (detectFmt s.message) s.message
      rw [message_length] at h
      exact h.trans hl

theorem shape_encodeHelper {i : Instr} {s : State} (f : List Byte → List Byte)
    (hi : i ∈ [Instr.hexEnc, .hexEncSep, .hexDec, .b64Enc, .b64Dec]) :
    ∃ t, encodeHelper f s = .next t ∧ ExecShape i s t :=
  shape_withInput fun _ => shape_checkOutput fun ho => ⟨_, rfl, .helper _ hi ho⟩

theorem shape_decodeHelper {i : Instr} {s : State} (valid : List Byte → Bool) (f : List Byte → List Byte)
    (hf : ∀ t, (f t).length ≤ t.length) (hi : i ∈ [Instr.hexEnc, .hexEncSep, .hexDec, .b64Enc, .b64Dec]) :
    ∃ t, decodeHelper valid f s = .next t ∧ ExecShape i s t := by
  refine shape_withInput fun hl => ?_
  split
  · refine ⟨_, rfl, .helper _ hi ?_⟩
    have h := (hf (strip s.message)).trans (strip_length_le s.message)
    rw [message_length] at h
    exact h.trans hl
  · exact ⟨_, rfl, .raised _ _ (by decide)⟩

/-- Every command answers a next state, in one of the shapes. -/
theorem exec_shape (i : Instr) (s : State) : ∃ t, exec i s = .next t ∧ ExecShape i s t := by
  cases i with
  | nop => exact ⟨_, rfl, .plain _ (.inl rfl)⟩
  | keySet => exact shape_checkInput fun _ => ⟨_, rfl, .key _ rfl⟩
  | ksched => exact shape_requireKey fun hk => ⟨_, rfl, .table rfl hk⟩
  | encb => exact shape_requireTable fun ht => ⟨_, rfl, .data _ (.inl rfl) ht⟩
  | decb => exact shape_requireTable fun ht => ⟨_, rfl, .data _ (.inr rfl) ht⟩
  | encHex => exact shape_encMessage (i := .encHex) (.hex false) (by decide)
  | encHexSep => exact shape_encMessage (i := .encHexSep) (.hex true) (by decide)
  | encB64 => exact shape_encMessage (i := .encB64) .base64 (by decide)
  | encRaw => exact shape_encMessage (i := .encRaw) .raw (by decide)
  | decAuto => exact shape_decMessage (i := .decAuto) .auto false (by decide)
  | decAutoNostrip => exact shape_decMessage (i := .decAutoNostrip) .auto true (by decide)
  | decBytes => exact shape_decMessage (i := .decBytes) .bytes false (by decide)
  | decBytesNostrip => exact shape_decMessage (i := .decBytesNostrip) .bytes true (by decide)
  | detect =>
    exact shape_withInput (i := .detect) (body := fun m => .next (s.succeed (detectFmt m) false))
      fun _ => ⟨_, rfl, .plain _ (.inr rfl)⟩
  | hexEnc => exact shape_encodeHelper (i := .hexEnc) (hexEncode false) (by decide)
  | hexEncSep => exact shape_encodeHelper (i := .hexEncSep) (hexEncode true) (by decide)
  | hexDec => exact shape_decodeHelper (i := .hexDec) isHex hexDecode hexDecode_length_le (by decide)
  | b64Enc => exact shape_encodeHelper (i := .b64Enc) b64Encode (by decide)
  | b64Dec => exact shape_decodeHelper (i := .b64Dec) b64Valid b64Decode b64Decode_length_le (by decide)

/-- The shape of the state a command answers. -/
theorem exec_next_shape {i : Instr} {s t : State} (h : exec i s = .next t) : ExecShape i s t := by
  obtain ⟨u, hu, hs⟩ := exec_shape i s
  rw [hu, Host.Outcome.next.injEq] at h
  exact h ▸ hs

/-! ### What a step can do -/

/-- What the engine's turn can do: nothing, an ILLEGAL_CMD, or the decoded command. -/
theorem complete_cases (s : State) :
    (s.pending = none ∧ complete s = .next s) ∨
    (∃ p i, s.pending = some p ∧ decode p.cmd = .ok i ∧ complete s = exec i s) ∨
    (∃ p e, s.pending = some p ∧ decode p.cmd = .error e ∧ complete s = .next (s.raise .illegalCmd .none)) := by
  cases hp : s.pending with
  | none => exact .inl ⟨rfl, by simp [complete, hp]⟩
  | some p =>
    cases hd : decode p.cmd with
    | ok i => exact .inr (.inl ⟨p, i, rfl, hd, by simp [complete, hp, hd]⟩)
    | error e => exact .inr (.inr ⟨p, e, rfl, hd, by simp [complete, hp, hd]⟩)

/-- The engine's turn answers a next state with no pending command, reached by no change, by `raise`, or by a command. -/
theorem complete_next (s : State) :
    ∃ t, complete s = .next t ∧
      ((s.pending = none ∧ t = s) ∨ (s.pending.isSome ∧ t = s.raise .illegalCmd .none) ∨
        ∃ p i, s.pending = some p ∧ decode p.cmd = .ok i ∧ ExecShape i s t) := by
  rcases complete_cases s with ⟨hp, h⟩ | ⟨p, i, hp, hd, h⟩ | ⟨p, e, hp, _, h⟩
  · exact ⟨s, h, .inl ⟨hp, rfl⟩⟩
  · obtain ⟨t, ht, hs⟩ := exec_shape i s
    exact ⟨t, h.trans ht, .inr (.inr ⟨p, i, hp, hd, hs⟩)⟩
  · exact ⟨_, h, .inr (.inl ⟨by simp [hp], rfl⟩)⟩

/-- A shape has no pending command. -/
theorem ExecShape.pending_none {i : Instr} {s t : State} (h : ExecShape i s t) : t.pending = none := by
  cases h <;> rfl

theorem accessRefusal_eq_none_iff (width : Width) (off : Nat) :
    accessRefusal width off = none ↔ definedAccess width off := by
  unfold accessRefusal definedAccess
  constructor
  · intro h
    split at h
    · simp at h
    · split at h
      · simp at h
      · split at h
        · simp at h
        · refine ⟨by simpa using ‹¬ width ≠ .word›, by omega, by omega⟩
  · rintro ⟨h1, h2, h3⟩
    simp [h1, h2, Nat.not_le.mpr h3]

theorem hostWr_defined {s : State} {width : Width} {off : Nat} {v : Word} (h : definedAccess width off) :
    hostWr s width off v = .next (hostWrite s off v) := by
  simp [hostWr, (accessRefusal_eq_none_iff width off).mpr h]

theorem hostRd_defined {s : State} {width : Width} {off : Nat} (h : definedAccess width off) :
    hostRd s width off = .next (hostRead s off) := by
  simp [hostRd, (accessRefusal_eq_none_iff width off).mpr h]

/-- What a step that answers a next state did: the engine's turn (with the schedule as it is, or without its first
event), a power-on reset, or one of the host's accesses. -/
theorem step_cases {s t : State} (h : step s = .next t) :
    complete s = .next t
    ∨ (∃ rest, s.schedule = .engine :: rest ∧ complete (s.advance rest) = .next t)
    ∨ (∃ rest, s.schedule = .powerOn :: rest ∧ t = (s.advance rest).powerOnReset)
    ∨ (∃ rest off v, s.schedule = .host (.wr .word off v) :: rest ∧ off % 4 = 0 ∧ off < 0x3000
        ∧ t = hostWrite (s.advance rest) off v)
    ∨ (∃ rest off, s.schedule = .host (.rd .word off) :: rest ∧ off % 4 = 0 ∧ off < 0x3000
        ∧ t = hostRead (s.advance rest) off)
    ∨ (∃ rest, s.schedule = .host .poll :: rest ∧ s.pending = none ∧ t = hostRead (s.advance rest) 0x008)
    ∨ (∃ rest, s.schedule = .host .waitIrq :: rest ∧ s.irq = true ∧ t = s.advance rest)
    ∨ (∃ rest sched, s.schedule = .host .rdout :: rest
        ∧ t = (hostRead (s.advance rest) 0x014).advance sched) := by
  unfold step nextEvent at h
  split at h
  · exact .inl h
  · exact .inr (.inl ⟨_, ‹_›, h⟩)
  · simp only [Host.Outcome.next.injEq] at h
    exact .inr (.inr (.inl ⟨_, ‹_›, h.symm⟩))
  · rename_i op rest hsch
    cases op with
    | wr width off v =>
      simp only [hostStep, hostWr] at h
      split at h
      · simp at h
      · rename_i hn
        obtain ⟨rfl, h2, h3⟩ := (accessRefusal_eq_none_iff width off).mp hn
        simp only [Host.Outcome.next.injEq] at h
        exact .inr (.inr (.inr (.inl ⟨rest, off, v, hsch, h2, h3, h.symm⟩)))
    | rd width off =>
      simp only [hostStep, hostRd] at h
      split at h
      · simp at h
      · rename_i hn
        obtain ⟨rfl, h2, h3⟩ := (accessRefusal_eq_none_iff width off).mp hn
        simp only [Host.Outcome.next.injEq] at h
        exact .inr (.inr (.inr (.inr (.inl ⟨rest, off, hsch, h2, h3, h.symm⟩))))
    | poll =>
      simp only [hostStep] at h
      split at h
      · exact .inl h
      · rename_i hb
        simp only [Host.Outcome.next.injEq] at h
        exact .inr (.inr (.inr (.inr (.inr (.inl
          ⟨rest, hsch, (State.busy_false_iff s).mp (by simpa using hb), h.symm⟩)))))
    | waitIrq =>
      simp only [hostStep] at h
      split at h
      · rename_i hq
        simp only [Host.Outcome.next.injEq] at h
        exact .inr (.inr (.inr (.inr (.inr (.inr (.inl ⟨rest, hsch, hq, h.symm⟩))))))
      · exact .inl h
    | rdout =>
      simp only [hostStep, hostRdout, Host.Outcome.next.injEq] at h
      exact .inr (.inr (.inr (.inr (.inr (.inr (.inr ⟨rest, _, hsch, h.symm⟩))))))

/-- What a defined word write does: an ignored write while busy sets ACCERR, any other write is `writeReg`. -/
theorem hostWrite_cases (s : State) (off : Nat) (v : Word) :
    (s.busy = true ∧ (regOf off).writableWhileBusy = false ∧ hostWrite s off v = s.markAccErr) ∨
    ((s.busy = false ∨ (regOf off).writableWhileBusy = true) ∧ hostWrite s off v = s.writeReg (regOf off) v) := by
  unfold hostWrite
  cases hb : s.busy <;> cases hw : (regOf off).writableWhileBusy <;> simp [hw]

/-- A window offset and its buffer index keep the alignment. -/
theorem regOf_inWindow {off i : Nat} (h : regOf off = .inWindow i) : 0x1000 ≤ off ∧ i = off - 0x1000 := by
  unfold regOf at h
  repeat' split at h
  all_goals simp_all

end Sys2Proof.Machine
end

