-- ==== Sys2Proof/Laws/Operands.lean ====
section
/-! SUPPORT. The address map (20_memory.md R54) at each of its ranges, and what a read or a write of the window does to
the state in the words of the map. -/

namespace Sys2Proof.Machine

/-! ### The map -/

theorem regOf_outWindow (i : Nat) : regOf (0x2000 + i) = .outWindow i := by
  unfold regOf
  rw [if_pos (by omega), Nat.add_sub_cancel_left]

theorem regOf_inWindow_eq (i : Nat) (h : i < 0x1000) : regOf (0x1000 + i) = .inWindow i := by
  unfold regOf
  rw [if_neg (by omega), if_pos (by omega), Nat.add_sub_cancel_left]

theorem regOf_sWord (i : Nat) (h : i < 26) : regOf (0x040 + 4 * i) = .sWord i := by
  unfold regOf
  rw [if_neg (by omega), if_neg (by omega), if_pos (by omega), Nat.add_sub_cancel_left,
    Nat.mul_div_cancel_left i (by decide)]

theorem regOf_key (n : Nat) (h : n < 4) : regOf (0x020 + 4 * n) = .key n := by
  unfold regOf
  rw [if_neg (by omega), if_neg (by omega), if_neg (by omega), if_pos (by omega), Nat.add_sub_cancel_left,
    Nat.mul_div_cancel_left n (by decide)]

/-- The reserved ranges of R54. -/
theorem regOf_reserved (off : Nat) (h : (0x034 ≤ off ∧ off ≤ 0x03C) ∨ (0x0A8 ≤ off ∧ off ≤ 0x0FFF)) :
    regOf off = .reserved := by
  unfold regOf
  rw [if_neg (by omega), if_neg (by omega), if_neg (by omega), if_neg (by omega)]
  split <;> first | rfl | (exfalso; omega)

/-- Every aligned offset of the window stands in one range of R54's map. -/
theorem regOf_cases (off : Nat) (ha : off % 4 = 0) (hl : off < 0x3000) :
    (off = 0x000 ∧ regOf off = .id) ∨ (off = 0x004 ∧ regOf off = .ctrl) ∨ (off = 0x008 ∧ regOf off = .status)
    ∨ (off = 0x00C ∧ regOf off = .cmd) ∨ (off = 0x010 ∧ regOf off = .inlen) ∨ (off = 0x014 ∧ regOf off = .outlen)
    ∨ (off = 0x018 ∧ regOf off = .dataA) ∨ (off = 0x01C ∧ regOf off = .dataB)
    ∨ (∃ n, n < 4 ∧ off = 0x020 + 4 * n ∧ regOf off = .key n) ∨ (off = 0x030 ∧ regOf off = .bufsize)
    ∨ (∃ i, i < 26 ∧ off = 0x040 + 4 * i ∧ regOf off = .sWord i)
    ∨ (((0x034 ≤ off ∧ off ≤ 0x03C) ∨ (0x0A8 ≤ off ∧ off ≤ 0x0FFC)) ∧ regOf off = .reserved)
    ∨ (∃ i, i < 0x1000 ∧ i % 4 = 0 ∧ off = 0x1000 + i ∧ regOf off = .inWindow i)
    ∨ (∃ i, i < 0x1000 ∧ i % 4 = 0 ∧ off = 0x2000 + i ∧ regOf off = .outWindow i) := by
  by_cases h1 : 0x2000 ≤ off
  · obtain ⟨i, rfl⟩ := Nat.exists_eq_add_of_le h1
    have := regOf_outWindow i
    iterate 13 right
    exact ⟨i, by omega, by omega, rfl, this⟩
  · by_cases h2 : 0x1000 ≤ off
    · obtain ⟨i, rfl⟩ := Nat.exists_eq_add_of_le h2
      have := regOf_inWindow_eq i (by omega)
      iterate 12 right
      left
      exact ⟨i, by omega, by omega, rfl, this⟩
    · by_cases h3 : (0x034 ≤ off ∧ off ≤ 0x03C) ∨ (0x0A8 ≤ off ∧ off ≤ 0x0FFC)
      · have := regOf_reserved off (by omega)
        iterate 11 right
        left
        exact ⟨h3, this⟩
      · by_cases h4 : 0x040 ≤ off
        · obtain ⟨k, rfl⟩ := Nat.exists_eq_add_of_le h4
          have hk : k = 4 * (k / 4) := by omega
          have := regOf_sWord (k / 4) (by omega)
          iterate 10 right
          left
          refine ⟨k / 4, by omega, by omega, ?_⟩
          rw [hk]
          simpa using this
        · by_cases h5 : 0x020 ≤ off ∧ off ≤ 0x02C
          · obtain ⟨k, rfl⟩ := Nat.exists_eq_add_of_le h5.1
            have hk : k = 4 * (k / 4) := by omega
            have := regOf_key (k / 4) (by omega)
            iterate 8 right
            left
            refine ⟨k / 4, by omega, by omega, ?_⟩
            rw [hk]
            simpa using this
          · have h6 : off = 0x000 ∨ off = 0x004 ∨ off = 0x008 ∨ off = 0x00C ∨ off = 0x010 ∨ off = 0x014
              ∨ off = 0x018 ∨ off = 0x01C ∨ off = 0x030 := by omega
            rcases h6 with rfl | rfl | rfl | rfl | rfl | rfl | rfl | rfl | rfl <;> simp [regOf]

/-! ### Steps on a host access -/

theorem step_wr {s : State} {off : Nat} {v : Word} {rest : List Event} (ha : off % 4 = 0) (hl : off < 0x3000)
    (hs : s.schedule = .host (.wr .word off v) :: rest) : step s = .next (hostWrite (s.advance rest) off v) := by
  have h : definedAccess .word off := ⟨rfl, ha, hl⟩
  simp [step, nextEvent, hs, hostStep, hostWr_defined h]

theorem step_rd {s : State} {off : Nat} {rest : List Event} (ha : off % 4 = 0) (hl : off < 0x3000)
    (hs : s.schedule = .host (.rd .word off) :: rest) : step s = .next (hostRead (s.advance rest) off) := by
  have h : definedAccess .word off := ⟨rfl, ha, hl⟩
  simp [step, nextEvent, hs, hostStep, hostRd_defined h]

@[simp] theorem advance_busy (s : State) (rest : List Event) : (s.advance rest).busy = s.busy := rfl

theorem hostWrite_idle {s : State} {off : Nat} {v : Word} (h : s.busy = false) :
    hostWrite s off v = s.writeReg (regOf off) v := by
  simp [hostWrite, h]

theorem hostWrite_busy {s : State} {off : Nat} {v : Word} (h : s.busy = true)
    (hr : (regOf off).writableWhileBusy = false) : hostWrite s off v = s.markAccErr := by
  simp [hostWrite, h, hr]

theorem readData_idle {s : State} {off : Nat} (h : s.busy = false) : readData s off = s.readReg (regOf off) := by
  simp [readData, readsDraw, h]

theorem readData_draw {s : State} {off : Nat} (h : s.busy = true) (hr : (regOf off).readableWhileBusy = false) :
    readData s off = Config.busyRead s.draws := by
  simp [readData, readsDraw, h, hr]

/-- The engine's turn with the word of a command pending is that command's meaning. -/
theorem complete_pending {s : State} {p : Pending} {i : Instr} (hp : s.pending = some p) (hd : decode p.cmd = .ok i) :
    complete s = exec i s := by
  simp [complete, hp, hd]

/-- A command issued to an idle block and the engine's turn after it: two steps, the second of which is the command's
meaning. -/
theorem step_issue {s : State} {i : Instr} {rest : List Event} (hb : s.busy = false)
    (hs : s.schedule = .host (.wr .word 0x00C (encode i)) :: .engine :: rest) :
    ∃ t, step s = .next t ∧ step t = exec i ((s.accept (encode i)).advance rest) := by
  refine ⟨(s.advance (.engine :: rest)).accept (encode i), ?_, ?_⟩
  · rw [step_wr (by decide) (by decide) hs, hostWrite_idle (by exact hb)]
    rfl
  · have hd : decode (encode i) = .ok i := by cases i <;> rfl
    exact complete_pending (s := (s.accept (encode i)).advance rest) rfl hd

/-! ### The bytes of a word -/

theorem le32_bytesLe (w : Word) :
    le32 (w.extractLsb' 0 8) (w.extractLsb' 8 8) (w.extractLsb' 16 8) (w.extractLsb' 24 8) = w := by
  apply BitVec.eq_of_getLsbD_eq
  intro i hi
  simp only [le32, BitVec.getLsbD_append, BitVec.getLsbD_extractLsb']
  interval_cases i <;> simp

theorem le32_byte (b0 b1 b2 b3 : Byte) :
    (le32 b0 b1 b2 b3).extractLsb' 0 8 = b0 ∧ (le32 b0 b1 b2 b3).extractLsb' 8 8 = b1
      ∧ (le32 b0 b1 b2 b3).extractLsb' 16 8 = b2 ∧ (le32 b0 b1 b2 b3).extractLsb' 24 8 = b3 := by
  refine ⟨?_, ?_, ?_, ?_⟩ <;>
  · apply BitVec.eq_of_getLsbD_eq
    intro i hi
    simp only [le32, BitVec.getLsbD_append, BitVec.getLsbD_extractLsb']
    interval_cases i <;> simp

end Sys2Proof.Machine
end

