-- ==== Sys2Proof/Laws/PerInstr.lean ====
section
/-! SUPPORT. Statements about every command as syntax, one lemma for each constructor. -/

/-- Every command is well formed, its word has the fields its row of the opcode table gives, and those fields pack
into its word (30_encoding.md R70, R73, R74). -/
def Sys2Proof.Laws.FieldsLegal.Statement (i : Sys2Proof.Instr) : Prop :=
  i.wf = true ∧ Sys2Proof.unpack (Sys2Proof.encode i) = i.fields ∧ Sys2Proof.pack i.fields = Sys2Proof.encode i

namespace Sys2Proof.Laws.FieldsLegal

theorem nop : Statement .nop := ⟨by decide, by decide, by decide⟩
theorem keySet : Statement .keySet := ⟨by decide, by decide, by decide⟩
theorem ksched : Statement .ksched := ⟨by decide, by decide, by decide⟩
theorem encb : Statement .encb := ⟨by decide, by decide, by decide⟩
theorem decb : Statement .decb := ⟨by decide, by decide, by decide⟩
theorem encHex : Statement .encHex := ⟨by decide, by decide, by decide⟩
theorem encHexSep : Statement .encHexSep := ⟨by decide, by decide, by decide⟩
theorem encB64 : Statement .encB64 := ⟨by decide, by decide, by decide⟩
theorem encRaw : Statement .encRaw := ⟨by decide, by decide, by decide⟩
theorem decAuto : Statement .decAuto := ⟨by decide, by decide, by decide⟩
theorem decAutoNostrip : Statement .decAutoNostrip := ⟨by decide, by decide, by decide⟩
theorem decBytes : Statement .decBytes := ⟨by decide, by decide, by decide⟩
theorem decBytesNostrip : Statement .decBytesNostrip := ⟨by decide, by decide, by decide⟩
theorem detect : Statement .detect := ⟨by decide, by decide, by decide⟩
theorem hexEnc : Statement .hexEnc := ⟨by decide, by decide, by decide⟩
theorem hexEncSep : Statement .hexEncSep := ⟨by decide, by decide, by decide⟩
theorem hexDec : Statement .hexDec := ⟨by decide, by decide, by decide⟩
theorem b64Enc : Statement .b64Enc := ⟨by decide, by decide, by decide⟩
theorem b64Dec : Statement .b64Dec := ⟨by decide, by decide, by decide⟩

end Sys2Proof.Laws.FieldsLegal
end

