-- ==== Sys2Proof/Tests/Slice0.lean ====
section
/-! SUPPORT. The model's own tests. Every expected value is copied from spec/ (30_encoding.md R70 to R75,
95_test_vectors.md); each test names its vector. Then, for every statement of Certificates/Slice0/Obligations.lean that
has hypotheses, a state that meets them. -/

namespace Sys2Proof.Tests

open Sys2Proof Sys2Proof.Machine

/-! ### Well-formedness: each check of R73 refuses an ill-formed term -/

theorem test_wf_refuses_reserved_op :
    (CmdFields.plain 0xC).opDefined = false ∧ (CmdFields.plain 0xC).legal = false := by
  decide

theorem test_wf_refuses_high_bits :
    ({ CmdFields.plain 0x0 with high := 1 } : CmdFields).reservedZero = false
      ∧ ({ CmdFields.plain 0x0 with high := 1 } : CmdFields).legal = false := by
  decide

theorem test_wf_refuses_bit7 :
    ({ CmdFields.plain 0x0 with bit7 := true } : CmdFields).reservedZero = false
      ∧ ({ CmdFields.plain 0x0 with bit7 := true } : CmdFields).legal = false := by
  decide

theorem test_wf_refuses_ofmt_outside_enc :
    ({ CmdFields.plain 0x0 with ofmt := 1 } : CmdFields).ofmtOnlyEnc = false
      ∧ ({ CmdFields.plain 0x0 with ofmt := 1 } : CmdFields).legal = false := by
  decide

theorem test_wf_refuses_reserved_ofmt :
    ({ CmdFields.plain 0x5 with ofmt := 3 } : CmdFields).ofmtDefined = false
      ∧ ({ CmdFields.plain 0x5 with ofmt := 3 } : CmdFields).legal = false := by
  decide

theorem test_wf_refuses_hexsep_outside_hex :
    ({ CmdFields.plain 0x6 with hexsep := true } : CmdFields).hexsepOnlyHex = false
      ∧ ({ CmdFields.plain 0x6 with hexsep := true } : CmdFields).legal = false := by
  decide

theorem test_wf_refuses_hexsep_with_base64 :
    ({ CmdFields.plain 0x5 with ofmt := 1, hexsep := true } : CmdFields).hexsepWithHex = false
      ∧ ({ CmdFields.plain 0x5 with ofmt := 1, hexsep := true } : CmdFields).legal = false := by
  decide

theorem test_wf_refuses_dec_options_outside_dec :
    ({ CmdFields.plain 0x1 with nostrip := true } : CmdFields).decOptionsOnlyDec = false
      ∧ ({ CmdFields.plain 0x7 with ifmt := 1 } : CmdFields).decOptionsOnlyDec = false
      ∧ ({ CmdFields.plain 0x7 with ifmt := 1 } : CmdFields).legal = false := by
  decide

theorem test_wf_refuses_reserved_ifmt :
    ({ CmdFields.plain 0x6 with ifmt := 2 } : CmdFields).ifmtDefined = false
      ∧ ({ CmdFields.plain 0x6 with ifmt := 2 } : CmdFields).legal = false := by
  decide

/-! ### Decoding: the words of R70 and R74 written out bit by bit -/

theorem test_decode_nop : decode 0b00000000000000000000000000000000 = .ok .nop := rfl
theorem test_decode_key_set : decode 0b00000000000000000000000000000001 = .ok .keySet := rfl
theorem test_decode_ksched : decode 0b00000000000000000000000000000010 = .ok .ksched := rfl
theorem test_decode_encb : decode 0b00000000000000000000000000000011 = .ok .encb := rfl
theorem test_decode_decb : decode 0b00000000000000000000000000000100 = .ok .decb := rfl
theorem test_decode_enc_hex : decode 0b00000000000000000000000000000101 = .ok .encHex := rfl
theorem test_decode_enc_hex_sep : decode 0b00000000000000000000000001000101 = .ok .encHexSep := rfl
theorem test_decode_enc_b64 : decode 0b00000000000000000000000000010101 = .ok .encB64 := rfl
theorem test_decode_enc_raw : decode 0b00000000000000000000000000100101 = .ok .encRaw := rfl
theorem test_decode_dec_auto : decode 0b00000000000000000000000000000110 = .ok .decAuto := rfl
theorem test_decode_dec_auto_nostrip : decode 0b00000000000000000000010000000110 = .ok .decAutoNostrip := rfl
theorem test_decode_dec_bytes : decode 0b00000000000000000000000100000110 = .ok .decBytes := rfl
theorem test_decode_dec_bytes_nostrip : decode 0b00000000000000000000010100000110 = .ok .decBytesNostrip := rfl
theorem test_decode_detect : decode 0b00000000000000000000000000000111 = .ok .detect := rfl
theorem test_decode_hex_enc : decode 0b00000000000000000000000000001000 = .ok .hexEnc := rfl
theorem test_decode_hex_enc_sep : decode 0b00000000000000000000000001001000 = .ok .hexEncSep := rfl
theorem test_decode_hex_dec : decode 0b00000000000000000000000000001001 = .ok .hexDec := rfl
theorem test_decode_b64_enc : decode 0b00000000000000000000000000001010 = .ok .b64Enc := rfl
theorem test_decode_b64_dec : decode 0b00000000000000000000000000001011 = .ok .b64Dec := rfl

/-- V-CTL-1: each of these words is illegal. -/
theorem test_decode_refuses :
    ([0x0C, 0x0F, 0x10, 0x80, 0x35, 0x55, 0x46, 0x206, 0x306, 0x401, 0x107, 0x47, 0x800, 0x1000000B, 0x80000000] :
      List Word).all (fun w => (decode w).toOption.isNone) = true := by
  decide

/-- The bytes of a word lie least significant first (20_memory.md R53). -/
theorem test_decode_bytes_order :
    decodeBytes [0x06, 0x05, 0x00, 0x00] = .ok .decBytesNostrip ∧ decodeTableWord 32 0x506 = some .decBytesNostrip :=
  ⟨rfl, rfl⟩

/-! ### Commands on small states -/

/-- A block after power-on whose table holds zeros, so that a test can compare it. -/
def idle : State := { State.reset with sTable := Vector.replicate 26 0 }

/-- The block with an input loaded (LDIN). -/
def loaded (b : List Byte) : State :=
  { idle with inBuf := Memory.putBytes [] 0 b, inlen := BitVec.ofNat 32 b.length }

/-- The block with a key set and an input loaded. -/
def keyed (k b : List Byte) : State := { loaded b with key := keyNormalize k, keyValid := true }

/-- "test", the key of 95_test_vectors.md. -/
def testKey : List Byte := [0x74, 0x65, 0x73, 0x74]

/-- The bytes of an ASCII text. -/
def text (s : String) : List Byte := s.toList.map fun c => BitVec.ofNat 8 c.toNat

/-- STATUS and OUT_BUF[0..OUTLEN) after a command. -/
def outcome : Result → Option (Word × List Byte)
  | .next t => some (t.statusWord, t.outBuf.readBytes .outBuf t.powerCycle t.outlen.toNat)
  | .fault _ => none
  | .refused _ => none

/-- STATUS, DATA_A and DATA_B after a command. -/
def outcomeData : Result → Option (Word × Word × Word)
  | .next t => some (t.statusWord, t.dataA, t.dataB)
  | .fault _ => none
  | .refused _ => none

/-- STATUS and a round-key word after a command. -/
def outcomeTable (n : Nat) : Result → Option (Word × Word)
  | .next t => some (t.statusWord, keyWord t.sTable n)
  | .fault _ => none
  | .refused _ => none

/-- STATUS and KEY0 to KEY3 after a command. -/
def outcomeKey : Result → Option (Word × List Word)
  | .next t => some (t.statusWord, [0, 1, 2, 3].map (keyRegister t.key))
  | .fault _ => none
  | .refused _ => none

/-- 95_test_vectors.md P3: DONE and no error. -/
theorem test_nop : outcome (exec .nop idle) = some (0x00000002, []) := by decide

/-- V-KS-5. -/
theorem test_key_set_pads :
    outcomeKey (exec .keySet (loaded [0x61, 0x62, 0x63]))
      = some (0x00000006, [0x00636261, 0, 0, 0]) := by
  decide

/-- V-KS-5: INLEN = 5000. -/
theorem test_key_set_overflow :
    outcomeKey (exec .keySet { idle with inlen := 5000 }) = some (0x00000502, [0, 0, 0, 0]) := by
  decide

set_option maxRecDepth 100000 in
/-- V-KS-2. -/
theorem test_ksched : outcomeTable 25 (exec .ksched (keyed [] [])) = some (0x0000000E, 0x65046380) := by decide

/-- V-KS-5. -/
theorem test_ksched_no_key : outcomeTable 0 (exec .ksched idle) = some (0x00000402, 0) := by decide

set_option maxRecDepth 100000 in
/-- V-BT-1, the first published vector: ENCB under the table of the zero key. -/
theorem test_encb :
    outcomeData (exec .encb { idle with
        sTable := keySchedule 0xB7E15163 0x9E3779B9 (keyNormalize []), keyValid := true, sValid := true })
      = some (0x0000000E, 0xEEDBA521, 0x6D8F4B15) := by
  decide

/-- V-BT-3: after reset there is no table. -/
theorem test_encb_no_table : outcomeData (exec .encb idle) = some (0x00000402, 0, 0) := by decide

set_option maxRecDepth 100000 in
/-- V-BT-2: DECB of the block of S2. -/
theorem test_decb :
    outcomeData (exec .decb { idle with
        sTable := keySchedule 0xB7E15163 0x9E3779B9 (keyNormalize testKey), keyValid := true, sValid := true,
        dataA := 0x1F809BAD, dataB := 0x614D4259 })
      = some (0x0000000E, 0x00004241, 0x00000000) := by
  decide

set_option maxRecDepth 100000 in
/-- V-MSG-2. -/
theorem test_enc_hex :
    outcome (exec .encHex (keyed testKey (text "AB")))
      = some (0x0000000E, (text "ad9b801f59424d61")) := by
  decide

/-- V-CTL-2: NO_KEY comes before OVERFLOW. -/
theorem test_enc_hex_no_key :
    outcome (exec .encHex { idle with inlen := 5000 })
      = some (0x00000402, []) := by
  decide

set_option maxRecDepth 100000 in
/-- V-MSG-2. -/
theorem test_enc_hex_sep :
    outcome (exec .encHexSep (keyed testKey (text "AB")))
      = some (0x0000000E, (text "ad 9b 80 1f 59 42 4d 61")) := by
  decide

set_option maxRecDepth 100000 in
/-- V-MSG-2. -/
theorem test_enc_b64 :
    outcome (exec .encB64 (keyed testKey (text "ABCDEFGHI")))
      = some (0x0000000E, (text "D84TgWkWUa6uXtLCnbkb1A==")) := by
  decide

set_option maxRecDepth 100000 in
/-- section 2, vector 2. -/
theorem test_enc_raw :
    outcome (exec .encRaw (keyed
        [0x91, 0x5F, 0x46, 0x19, 0xBE, 0x41, 0xB2, 0x51, 0x63, 0x55, 0xA5, 0x01, 0x10, 0xA9, 0xCE, 0x91]
        [0x21, 0xA5, 0xDB, 0xEE, 0x15, 0x4B, 0x8F, 0x6D]))
      = some (0x0000000E, [0xF7, 0xC0, 0x13, 0xAC, 0x5B, 0x2B, 0x89, 0x52]) := by
  decide

/-- V-MSG-4: INLEN = 4097. -/
theorem test_enc_raw_overflow :
    outcome (exec .encRaw { keyed testKey [] with inlen := 4097 })
      = some (0x00000506, []) := by
  decide

set_option maxRecDepth 100000 in
/-- V-MSG-3. -/
theorem test_dec_auto :
    outcome (exec .decAuto (keyed testKey (text "ad 9b 80 1f 59 42 4d 61")))
      = some (0x0000101E, (text "AB")) := by
  decide

/-- V-MSG-3. -/
theorem test_dec_auto_raw :
    outcome (exec .decAuto (keyed testKey (text "abc")))
      = some (0x00003206, []) := by
  decide

set_option maxRecDepth 100000 in
/-- V-MSG-3 and S2: the Base64 form, its trailing zero bytes kept. -/
theorem test_dec_auto_nostrip :
    outcome (exec .decAutoNostrip (keyed testKey (text "rZuAH1lCTWE=")))
      = some (0x0000200E, [0x41, 0x42, 0x00, 0x00, 0x00, 0x00, 0x00, 0x00]) := by
  decide

/-- V-MSG-3: "abcd" is hex, and 2 bytes are no block. -/
theorem test_dec_auto_nostrip_length :
    outcome (exec .decAutoNostrip (keyed testKey (text "abcd")))
      = some (0x00001106, []) := by
  decide

set_option maxRecDepth 100000 in
/-- V-TXT: the inner zero byte is kept, and U+0000 is a control character. -/
theorem test_dec_bytes :
    outcome (exec .decBytes (keyed testKey [0x53, 0x5B, 0xD1, 0x7E, 0xF1, 0x36, 0xF3, 0x67]))
      = some (0x0000000E, [0x41, 0x42, 0x00, 0x43]) := by
  decide

set_option maxRecDepth 100000 in
/-- V-TXT: two-byte and three-byte UTF-8. -/
theorem test_dec_bytes_text :
    outcome (exec .decBytes (keyed testKey [0x9D, 0xFF, 0x0C, 0xCB, 0x2A, 0x2E, 0x09, 0xF3]))
      = some (0x0000001E, [0xC3, 0xA9, 0xE2, 0x82, 0xAC]) := by
  decide

set_option maxRecDepth 100000 in
/-- S8: only block 1 differs. -/
theorem test_dec_bytes_nostrip :
    outcome (exec .decBytesNostrip (keyed testKey
        [0x0F, 0xCE, 0x13, 0x81, 0x69, 0x16, 0x51, 0xAE, 0xC9, 0x3F, 0xA6, 0xC6, 0x60, 0xFF, 0x4F, 0x2E]))
      = some (0x0000000E,
        [0x41, 0x42, 0x43, 0x44, 0x45, 0x46, 0x47, 0x48, 0x9F, 0xB9, 0x20, 0x7C, 0x43, 0x4D, 0xD8, 0x40]) := by
  decide

/-- V-FMT: also valid Base64. -/
theorem test_detect_hex_first :
    outcome (exec .detect (loaded (text "abcd")))
      = some (0x00001002, []) := by
  decide

/-- V-FMT. -/
theorem test_detect_dropped_bits :
    outcome (exec .detect (loaded (text "QR==")))
      = some (0x00003002, []) := by
  decide

/-- V-HLP. -/
theorem test_hex_enc :
    outcome (exec .hexEnc (loaded [0x00, 0xFF, 0x41]))
      = some (0x00000002, (text "00ff41")) := by
  decide

/-- V-HLP. -/
theorem test_hex_enc_sep :
    outcome (exec .hexEncSep (loaded [0x00, 0xFF, 0x41]))
      = some (0x00000002, (text "00 ff 41")) := by
  decide

/-- V-HLP. -/
theorem test_hex_dec :
    outcome (exec .hexDec (loaded (text "AD 9b")))
      = some (0x00000002, [0xAD, 0x9B]) := by
  decide

/-- V-HLP: the empty text is not hex. -/
theorem test_hex_dec_empty :
    outcome (exec .hexDec (loaded []))
      = some (0x00000202, []) := by
  decide

/-- V-HLP. -/
theorem test_b64_enc :
    outcome (exec .b64Enc (loaded (text "AB")))
      = some (0x00000002, (text "QUI=")) := by
  decide

/-- V-HLP: not tried as hex. -/
theorem test_b64_dec :
    outcome (exec .b64Dec (loaded (text "abcd")))
      = some (0x00000002, [0x69, 0xB7, 0x1D]) := by
  decide

/-- V-HLP: strict. -/
theorem test_b64_dec_unpadded :
    outcome (exec .b64Dec (loaded (text "Zm9vYg")))
      = some (0x00000202, []) := by
  decide

/-! ### The text check, by itself (V-TXT) -/

/-- Tab, CR and LF; two-byte and three-byte characters; the empty text. -/
theorem test_text_accepts :
    isPlainText [0x41, 0x09, 0x42, 0x0D, 0x0A] = true ∧ isPlainText [0xC3, 0xA9, 0xE2, 0x82, 0xAC] = true
      ∧ isPlainText [] = true := by
  decide

/-- U+0001; U+FFFD; U+0085; the surrogate U+D800; an overlong form; FF; an inner U+0000. -/
theorem test_text_rejects :
    ([[0x41, 0x01], [0xEF, 0xBF, 0xBD], [0xC2, 0x85], [0xED, 0xA0, 0x80], [0xC0, 0xAF], [0xFF, 0xFE, 0x41],
      [0x41, 0x42, 0x00, 0x43]] : List (List Byte)).all (fun p => !isPlainText p) = true := by
  decide

/-- R153's four-byte rows at their ends: U+10000 and U+10FFFF, and the sequences just outside. -/
theorem test_text_four_bytes :
    isPlainText [0xF0, 0x90, 0x80, 0x80] = true ∧ isPlainText [0xF4, 0x8F, 0xBF, 0xBF] = true
      ∧ isPlainText [0xF0, 0x8F, 0xBF, 0xBF] = false ∧ isPlainText [0xF4, 0x90, 0x80, 0x80] = false := by
  decide

/-! ### Word helpers and host accesses -/

/-- Section 3.1. -/
theorem test_rotations :
    rotl 0x12345678 4 = 0x23456781 ∧ rotl 0x12345678 32 = 0x12345678 ∧ rotl 0x12345678 33 = 0x2468ACF0
      ∧ rotr 0x80000001 1 = 0xC0000000 ∧ rotr 0x12345678 36 = 0x81234567 := by
  decide

/-- The block with one event scheduled. -/
def soon (e : Event) (s : State) : State := { s with schedule := [e] }

/-- What the host's newest read returned, and STATUS. -/
def outcomeRead : Result → Option (Option (Nat × Word) × Word)
  | .next t => some (t.hostReads.head?, t.statusWord)
  | .fault _ => none
  | .refused _ => none

/-- P1: "RD IN+0 -> 0x74736574" is the little-endian word of "test" (20_memory.md R53). -/
theorem test_read_in_buf :
    outcomeRead (step (soon (rd 0x1000) (loaded testKey))) = some (some (0x1000, 0x74736574), 0) := by
  decide

/-- P3: a write while BUSY = 1 is ignored and sets ACCERR. -/
theorem test_write_while_busy :
    outcomeRead (step (soon (wr 0x010 0) (idle.accept 0x000))) = some (none, 0x00000021) := by
  decide

/-- P3: clearing DONE and ACCERR. -/
theorem test_clear_done_and_accerr :
    outcomeRead (step (soon (wr 0x008 0x22) { idle with done := true, accErr := true, err := .overflow }))
      = some (none, 0x00000500) := by
  decide

/-- P3: soft reset. -/
theorem test_soft_reset : outcomeRead (step (soon (wr 0x004 2) (keyed testKey []))) = some (none, 0) := by decide

/-- V-CTL-1: an illegal word after reset. -/
theorem test_illegal_word : outcome (step (State.reset.withFetchWord 32 0x35)) = some (0x00000302, []) := by decide

/-- R74: KSCHED after reset has no key. -/
theorem test_fetched_word : outcome (step (State.reset.withFetchWord 32 0x002)) = some (0x00000402, []) := by decide

/-! ### Witnesses: states that meet the hypotheses of the statements

`small n` has buffers of `n` bytes, so that a boundary is near. -/

/-- A block with small buffers, a key, a table and an input of `len` bytes. -/
def small (n : Nat) (len : Word) : State :=
  { idle with
    cfg := { Config.default with bufBytes := n }, key := keyNormalize [], keyValid := true
    sValid := true, inlen := len
    sTable := keySchedule Config.default.p Config.default.q (keyNormalize []) }

theorem witness_EncodeAndDecodeAgree : Instr.wf .decBytesNostrip = true ∧ decode 0x506 = .ok .decBytesNostrip :=
  ⟨rfl, rfl⟩

theorem witness_StepRunsThePendingCommand :
    ∃ p, (idle.accept 0x00B).pending = some p ∧ decode p.cmd = .ok .b64Dec ∧ (idle.accept 0x00B).schedule = []
      ∧ (soon .engine (idle.accept 0x00B)).schedule = .engine :: []
      ∧ (soon (.host .poll) (idle.accept 0x00B)).schedule = .host .poll :: []
      ∧ (soon (.host .waitIrq) (idle.accept 0x00B)).schedule = .host .waitIrq :: []
      ∧ (soon (.host .waitIrq) (idle.accept 0x00B)).irq = false :=
  ⟨_, rfl, rfl, rfl, rfl, rfl, rfl, rfl⟩

theorem witness_CommandIssue :
    (soon (wr 0x00C 0x00B) idle).schedule = .host (.wr .word 0x00C 0x00B) :: []
      ∧ (soon (wr 0x00C 0x00B) idle).busy = false ∧ decode 0x00B = .ok .b64Dec ∧ (unpack 0x00C).legal = false
      ∧ (soon (wr 0x00C 0x00B) (idle.accept 0)).busy = true :=
  ⟨rfl, rfl, rfl, rfl, rfl⟩

theorem witness_IllegalWordsOnlyReportIllegalCmd :
    (∃ p, (idle.accept 0x0C).pending = some p ∧ (unpack p.cmd).legal = false)
      ∧ 0xC ≤ (unpack 0x00C).op.toNat ∧ (unpack 0x035).ofmt = 3 ∧ 2 ≤ (unpack 0x206).ifmt.toNat
      ∧ (unpack 0x080).bit7 = true ∧ (unpack 0x800).high ≠ 0 :=
  ⟨⟨_, rfl, rfl⟩, by decide⟩

theorem witness_EveryPendingCommandCompletes : (idle.accept 0xFFF).busy = true ∧ (idle.accept 0xFFF).schedule = [] :=
  ⟨rfl, rfl⟩

theorem witness_FailingCommandChangesOnlyStatus :
    (∃ t, exec .ksched idle = .next t ∧ t.err ≠ .ok)
      ∧ (idle.accept 0x0C).busy = true ∧ ∃ t, complete (idle.accept 0x0C) = .next t ∧ t.err ≠ .ok :=
  ⟨⟨_, rfl, by decide⟩, rfl, _, rfl, by decide⟩

theorem witness_FirstErrorIsReported :
    ∃ p, (idle.accept 0x00C).pending = some p ∧ (unpack p.cmd).legal = false :=
  ⟨_, rfl, rfl⟩

theorem witness_CommandsWriteOnlyTheirOwnState :
    (∃ t, exec .hexEnc (small 8 4) = .next t ∧ t.err = .ok ∧ t.outlen.toNat ≤ 8) ∧ (small 8 4).cfg.wf = true
      ∧ Instr.hexEnc ∈ producesOutput ∧ Instr.hexEnc ∉ writesTable ∧ Instr.detect ∉ producesOutput
      ∧ Instr.hexEnc ≠ .keySet ∧ Instr.hexEnc ≠ .encb ∧ Instr.hexEnc ≠ .decb :=
  ⟨⟨_, rfl, rfl, by decide⟩, by decide⟩

theorem witness_KeyAndTableChangeOnlyByTheirCommandsAndResets :
    (∃ t, step ((loaded testKey).accept 0x001) = .next t ∧ t.key ≠ (loaded testKey).key)
      ∧ (∃ t, step (soon (wr 0x004 2) (keyed testKey [])) = .next t ∧ t.key ≠ (keyed testKey []).key)
      ∧ (∃ t, step (soon .powerOn (keyed testKey [])) = .next t ∧ t.key ≠ (keyed testKey []).key) :=
  ⟨⟨_, rfl, by decide⟩, ⟨_, rfl, by decide⟩, ⟨_, rfl, by decide⟩⟩

set_option maxRecDepth 100000 in
theorem witness_KeyAndTable_table :
    ∃ t, step ((keyed testKey []).accept 0x002) = .next t ∧ t.sTable ≠ (keyed testKey []).sTable :=
  ⟨_, rfl, by decide⟩

/-- Two blocks that differ in what ENC does not read: SVALID, DATA_A, and the IN_BUF bytes from INLEN on. -/
theorem witness_SameInputsGiveTheSameResult :
    let s := keyed testKey (text "AB")
    let s' := { keyed testKey (text "ABC") with inlen := 2, sValid := true, dataA := 1 }
    SameReads .encHex s s' ∧ s.operands ≠ s'.operands ∧ s.cfg = s'.cfg ∧ s.operands.key = s'.operands.key
      ∧ s.operands.keyValid = s'.operands.keyValid ∧ s.operands.inlen = s'.operands.inlen
      ∧ ∀ a, a < s.inputLen → s.operandByte a = s'.operandByte a := by
  have h : ∀ a, a < 2 →
      (keyed testKey (text "AB")).operandByte a
        = ({ keyed testKey (text "ABC") with inlen := 2, sValid := true, dataA := 1 } : State).operandByte a := by
    decide
  exact ⟨⟨rfl, fun _ => ⟨rfl, rfl⟩, fun h => absurd h (by decide), fun _ => ⟨rfl, fun a ha _ => h a ha⟩⟩,
    fun h => absurd (congrArg Inputs.sValid h) (by decide), rfl, rfl, rfl, rfl, h⟩

/-- Two inputs that KEY_SET reads alike: they differ at byte 16, past the bytes it reads. -/
theorem witness_SameReads_key_set :
    SameReads .keySet (loaded (List.replicate 17 0)) (loaded (List.replicate 16 0 ++ [1])) := by
  refine ⟨rfl, fun h => absurd h (by decide), fun h => absurd h (by decide), fun _ => ⟨rfl, fun a _ h => ?_⟩⟩
  have h16 : a < 16 := h rfl
  revert a
  decide

theorem witness_NopOnlyCompletes :
    (unpack 0x000).op = 0 ∧ ∃ p, (idle.accept 0x800).pending = some p ∧ (unpack p.cmd).op = 0 ∧ p.cmd ≠ 0 :=
  ⟨rfl, _, rfl, rfl, by decide⟩

theorem witness_KeySetLoadsTheNormalizedKey :
    (small 8 8).inputLen ≤ (small 8 8).cfg.bufBytes ∧ (small 8 9).cfg.bufBytes < (small 8 9).inputLen := by
  decide

theorem witness_KschedBuildsTheTable : (small 8 0).operands.keyValid = true ∧ idle.operands.keyValid = false :=
  ⟨rfl, rfl⟩

theorem witness_EncbEncryptsTheBlock : (small 8 0).operands.sValid = true ∧ idle.operands.sValid = false := ⟨rfl, rfl⟩

theorem witness_DecbDecryptsTheBlock : (small 8 0).operands.sValid = true ∧ idle.operands.sValid = false := ⟨rfl, rfl⟩

theorem witness_EncWritesTheEncodedCiphertext :
    idle.operands.keyValid = false ∧ (small 8 9).operands.keyValid = true
      ∧ (small 8 9).cfg.bufBytes < (small 8 9).inputLen ∧ (small 8 8).inputLen ≤ (small 8 8).cfg.bufBytes
      ∧ ((small 8 8).encText .raw).length ≤ (small 8 8).cfg.bufBytes
      ∧ (small 8 8).cfg.bufBytes < ((small 8 8).encText (.hex false)).length
      ∧ ((small 16 8).encText (.hex false)).length ≤ (small 16 8).cfg.bufBytes := by
  decide

theorem witness_DecWritesThePlaintext :
    (let s := keyed testKey (text "abc");
      s.operands.keyValid = true ∧ s.inputLen ≤ s.cfg.bufBytes ∧ (s.decSource true).1 = .raw)
    ∧ (let s := keyed testKey (text "abcd");
      s.inputLen ≤ s.cfg.bufBytes ∧ (s.decSource true).1 ≠ .raw ∧ (s.decSource true).2.length % 8 ≠ 0)
    ∧ (let s := keyed testKey (text "rZuAH1lCTWE=");
      s.inputLen ≤ s.cfg.bufBytes ∧ (s.decSource true).1 ≠ .raw ∧ (s.decSource true).2.length % 8 = 0)
    ∧ ((small 8 7).decSource false).2.length % 8 ≠ 0 ∧ ((small 8 8).decSource false).1 ≠ .raw
    ∧ ((small 8 8).decSource false).2.length % 8 = 0 ∧ (small 8 9).cfg.bufBytes < (small 8 9).inputLen := by
  decide

theorem witness_DetectReportsTheFormat :
    (small 8 8).inputLen ≤ (small 8 8).cfg.bufBytes ∧ (small 8 9).cfg.bufBytes < (small 8 9).inputLen := by
  decide

theorem witness_HexEncWritesTheHexText :
    ((small 8 9).cfg.bufBytes < (small 8 9).inputLen)
      ∧ ((small 8 5).inputLen ≤ (small 8 5).cfg.bufBytes ∧ (small 8 5).cfg.bufBytes < 2 * (small 8 5).inputLen)
      ∧ 2 * (small 8 4).inputLen ≤ (small 8 4).cfg.bufBytes
      ∧ ((small 8 4).inputLen ≤ (small 8 4).cfg.bufBytes ∧ (small 8 4).cfg.bufBytes < 3 * (small 8 4).inputLen - 1)
      ∧ 3 * (small 8 3).inputLen - 1 ≤ (small 8 3).cfg.bufBytes := by
  decide

theorem witness_HexDecWritesTheBytes :
    isHex (strip (loaded (text "0x12")).message) = false ∧ isHex (strip (loaded (text "0 a")).message) = true
      ∧ (loaded (text "0 a")).inputLen ≤ (loaded (text "0 a")).cfg.bufBytes
      ∧ (small 8 9).cfg.bufBytes < (small 8 9).inputLen := by
  decide

theorem witness_B64EncWritesTheBase64Text :
    ((small 8 7).inputLen ≤ (small 8 7).cfg.bufBytes ∧ (small 8 7).cfg.bufBytes < 4 * (((small 8 7).inputLen + 2) / 3))
      ∧ 4 * (((small 8 6).inputLen + 2) / 3) ≤ (small 8 6).cfg.bufBytes
      ∧ (small 8 9).cfg.bufBytes < (small 8 9).inputLen := by
  decide

theorem witness_B64DecWritesTheBytes :
    b64Valid (strip (loaded (text "QR==")).message) = false ∧ b64Valid (strip (loaded []).message) = true
      ∧ (loaded []).inputLen ≤ (loaded []).cfg.bufBytes ∧ (small 8 9).cfg.bufBytes < (small 8 9).inputLen := by
  decide

theorem witness_EncbAndDecbRestoreTheBlock :
    (small 8 0).busy = false ∧ (small 8 0).sValid = true
      ∧ ({ small 8 0 with
            schedule := [issue (.named .encb), .engine, issue (.named .decb), .engine] } : State).schedule
        = [issue (.named .encb), .engine, issue (.named .decb), .engine] ++ [] :=
  ⟨rfl, rfl, rfl⟩

/-- The keys "test" and "test" followed by a zero byte. -/
theorem witness_KeysEqualAfterNormalizationGiveTheSameTable :
    ∀ i, i < 16 → testKey.getD i 0 = (testKey ++ [0]).getD i 0 := by
  decide

theorem witness_PadAndUnpad :
    ([] : List Byte).length % 8 = 0 ∧ 16 % 8 = 0 ∧ (List.replicate 9 (1 : Byte)).length ≤ 16
      ∧ ([1, 0, 0] : List Byte) = [1, 0] ++ List.replicate 1 0 := by
  decide

set_option maxRecDepth 100000 in
theorem witness_EncOutputLengths :
    (∃ t, exec .encRaw (small 8 8) = .next t ∧ t.err = .ok) ∧ (small 8 8).inputLen ≤ (small 8 8).cfg.bufBytes :=
  ⟨⟨_, rfl, by decide⟩, by decide⟩

set_option maxRecDepth 100000 in
/-- S2: ENC.b64 of "AB", and its text loaded as an input. -/
theorem witness_EncThenDecReturnsTheMessage :
    let s := keyed testKey (text "AB")
    let u := keyed testKey (text "rZuAH1lCTWE=")
    s.cfg.wf = true ∧ (∃ t, exec .encB64 s = .next t ∧ t.err = .ok ∧ u.operands.inlen = t.outlen
        ∧ ∀ a, a < t.outlen.toNat → u.operandByte a = t.outByte a)
      ∧ u.cfg = s.cfg ∧ u.operands.key = s.operands.key ∧ u.operands.keyValid = true
      ∧ isHex (s.encText .base64) = false := by
  refine ⟨by decide, ⟨_, rfl, by decide, by decide, by decide⟩, rfl, rfl, rfl, by decide⟩

set_option maxRecDepth 100000 in
/-- S2: ENC.raw of "AB", and its bytes loaded for DEC.bytes. -/
theorem witness_EncThenDec_raw :
    let s := keyed testKey (text "AB")
    let u := keyed testKey [0xAD, 0x9B, 0x80, 0x1F, 0x59, 0x42, 0x4D, 0x61]
    ∃ t, exec .encRaw s = .next t ∧ t.err = .ok ∧ u.operands.inlen = t.outlen
        ∧ ∀ a, a < t.outlen.toNat → u.operandByte a = t.outByte a :=
  ⟨_, rfl, by decide, by decide, by decide⟩

set_option maxRecDepth 100000 in
/-- S2: ENC.hex of "AB", and its text loaded for DEC.auto. -/
theorem witness_EncThenDec_hex :
    let s := keyed testKey (text "AB")
    let u := keyed testKey (text "ad9b801f59424d61")
    ∃ t, exec .encHex s = .next t ∧ t.err = .ok ∧ u.operands.inlen = t.outlen
        ∧ ∀ a, a < t.outlen.toNat → u.operandByte a = t.outByte a :=
  ⟨_, rfl, by decide, by decide, by decide⟩

set_option maxRecDepth 100000 in
/-- S2: ENC.hex.sep of "AB", and its text loaded for DEC.auto. -/
theorem witness_EncThenDec_hex_sep :
    let s := keyed testKey (text "AB")
    let u := keyed testKey (text "ad 9b 80 1f 59 42 4d 61")
    ∃ t, exec .encHexSep s = .next t ∧ t.err = .ok ∧ u.operands.inlen = t.outlen
        ∧ ∀ a, a < t.outlen.toNat → u.operandByte a = t.outByte a :=
  ⟨_, rfl, by decide, by decide, by decide⟩

/-- 24 bytes whose Base64 text is all 'A'. -/
theorem witness_Base64TextThatIsHex :
    (List.replicate 24 (0 : Byte)).length % 8 = 0 ∧ isHex (b64Encode (List.replicate 24 0)) = true := by
  decide

theorem witness_BlocksAreIndependent :
    let c : List Byte := List.replicate 16 0
    let c' : List Byte := List.replicate 8 0 ++ List.replicate 8 1
    c.length = c'.length ∧ c.length % 8 = 0 ∧ (∀ a, a < 24 → a / 8 ≠ 1 → c.getD a 0 = c'.getD a 0) ∧ c ≠ c' := by
  decide

/-- The last sequence of the row U+D000..U+D7FF, a text of one such sequence, and the bytes of the other clauses. -/
theorem witness_TextCheckOnAsciiAndForbiddenBytes :
    InUtf8Row (0xD000, 0xD7FF, [(0xED, 0xED), (0x80, 0x9F), (0x80, 0xBF)]) [0xED, 0x9F, 0xBF]
      ∧ (0xD000, 0xD7FF, [(0xED, 0xED), (0x80, 0x9F), (0x80, 0xBF)]) ∈ utf8Table
      ∧ ([0xED, 0x9F, 0xBF] : List Byte) ∉ rejectedSequences ∧ isPlainText [0xED, 0x9F, 0xBF] = true
      ∧ (0 : Byte) ∈ ([0x41, 0x00] : List Byte) ∧ (0xF5 : Byte) ∈ ([0xF5] : List Byte)
      ∧ ∀ v ∈ ([0x20, 0x7E, 0x09, 0x0A, 0x0D] : List Byte),
        (0x20 ≤ v.toNat ∧ v.toNat ≤ 0x7E) ∨ v = 0x09 ∨ v = 0x0A ∨ v = 0x0D := by
  refine ⟨?_, by decide⟩
  unfold InUtf8Row
  decide

/-- Digits and characters outside the tables. -/
theorem witness_HexAndBase64Tables :
    (0x67 : Byte) ∉ lowerHexDigits ∧ (0x67 : Byte) ∉ upperHexDigits ∧ (0x2D : Byte) ∉ b64Alphabet ∧ 15 < 16 ∧ 63 < 64 := by
  decide

theorem witness_HexWinsTies :
    isHex (strip (text "abcd")) = true ∧ (strip (text "abcd")).length % 4 = 0 ∧ isHex (text "abcd") = true
      ∧ b64Valid (text "abcd") = true := by
  decide

theorem witness_OddLengthTextIsRaw :
    (strip (text "abc")).length % 2 = 1 ∧ (keyed testKey (text "abc")).operands.keyValid = true
      ∧ (keyed testKey (text "abc")).inputLen ≤ (keyed testKey (text "abc")).cfg.bufBytes
      ∧ (strip (keyed testKey (text "abc")).message).length % 2 = 1 := by
  decide

/-- The last word of each range of the map: `0x1FFC` and `0x2FFC` are the last words of the windows. -/
theorem witness_ReadsWhileIdle :
    idle.busy = false ∧ (soon (rd 0x02C) idle).schedule = .host (.rd .word 0x02C) :: [] ∧ 0x02C = 0x020 + 4 * 3
      ∧ 0x0A4 = 0x040 + 4 * 25 ∧ 0x1FFC = 0x1000 + 0xFFC ∧ 0x2FFC = 0x2000 + 0xFFC ∧ 0x2FFC % 4 = 0 ∧ 0x2FFC < 0x3000
      ∧ (0xFFC < idle.cfg.bufBytes) ∧ (small 8 0).cfg.bufBytes ≤ 8 :=
  ⟨rfl, rfl, by decide⟩

theorem witness_WritesWhileIdle :
    idle.busy = false ∧ (soon (wr 0x1FFC 7) idle).schedule = .host (.wr .word 0x1FFC 7) :: []
      ∧ (1 : Word).getLsbD 1 = false ∧ 0x1FFC = 0x1000 + 0xFFC ∧ 0xFFC < idle.cfg.bufBytes
      ∧ 0x1008 ∉ [0x004, 0x008, 0x00C, 0x010, 0x018, 0x01C]
      ∧ ¬ (0x1000 ≤ 0x1008 ∧ 0x1008 < 0x2000 ∧ 0x1008 - 0x1000 < (small 8 0).cfg.bufBytes) :=
  ⟨rfl, rfl, by decide⟩

theorem witness_AccessesWhileBusy :
    (idle.accept 0).busy = true ∧ (soon (wr 0x004 2) (idle.accept 0)).schedule = .host (.wr .word 0x004 2) :: []
      ∧ (2 : Word).getLsbD 1 = true ∧ (1 : Word).getLsbD 1 = false
      ∧ (soon (rd 0x010) (idle.accept 0)).schedule = .host (.rd .word 0x010) :: []
      ∧ 0x010 ∉ [0x000, 0x004, 0x008, 0x030] ∧ 0x030 ∈ [0x000, 0x004, 0x008, 0x030] :=
  ⟨rfl, rfl, rfl, rfl, rfl, by decide⟩

/-- The last word of small buffers. -/
theorem witness_InBufWordReadsBack :
    (small 8 0).busy = false ∧ 4 % 4 = 0 ∧ 4 < 0x1000 ∧ 4 < (small 8 0).cfg.bufBytes
      ∧ ({ small 8 0 with schedule := [wr (0x1000 + 4) 7, rd (0x1000 + 4)] } : State).schedule
        = .host (.wr .word (0x1000 + 4) 7) :: .host (.rd .word (0x1000 + 4)) :: [] :=
  ⟨rfl, rfl, by decide, by decide, rfl⟩

/-- Each kind of undefined access, and a defined one. -/
theorem witness_OnlyUndefinedAccessesAreRefused :
    ¬ (HostOp.rd .byte 0x008).defined ∧ ¬ (HostOp.rd .word 0x00A).defined ∧ ¬ (HostOp.wr .word 0x3000 0).defined
      ∧ (HostOp.wr .word 0x2FFC 0).defined := by
  simp [HostOp.defined, definedAccess]

theorem witness_IrqLine :
    ((idle.accept 0xFFF).busy = true ∧ ∃ t, complete (idle.accept 0xFFF) = .next t)
      ∧ (∃ t, step (soon (wr 0x008 2) { idle with ie := true, done := true }) = .next t)
      ∧ (∃ t, step (soon (wr 0x004 0) { idle with ie := true, done := true }) = .next t)
      ∧ (∃ t, step (soon (wr 0x00C 0) { idle with ie := true, done := true }) = .next t)
      ∧ (2 : Word).getLsbD 1 = true ∧ (0 : Word).getLsbD 0 = false :=
  ⟨⟨rfl, _, rfl⟩, ⟨_, rfl⟩, ⟨_, rfl⟩, ⟨_, rfl⟩, rfl, rfl⟩

theorem witness_SoftReset :
    (soon (wr 0x004 3) (idle.accept 0)).schedule = .host (.wr .word 0x004 3) :: [] ∧ (3 : Word).getLsbD 1 = true :=
  ⟨rfl, rfl⟩

theorem witness_PowerOnReset :
    (soon .powerOn (keyed testKey [])).schedule = .powerOn :: []
      ∧ ∃ t, step (soon .powerOn (keyed testKey [])) = .next t :=
  ⟨rfl, _, rfl⟩

theorem witness_HostWaitsAndReadsOut :
    (soon (.host .poll) (idle.accept 0)).busy = true ∧ (soon (.host .poll) idle).busy = false
      ∧ (soon (.host .waitIrq) { idle with ie := true, done := true }).irq = true
      ∧ (soon (.host .waitIrq) (idle.accept 0)).irq = false ∧ (soon (.host .waitIrq) idle).irq = false
      ∧ (soon (.host .rdout) idle).schedule = .host .rdout :: [] :=
  ⟨rfl, rfl, rfl, rfl, rfl, rfl⟩

/-- As many bytes as the buffer has. -/
theorem witness_LdinPlacesTheBytes :
    let b : List Byte := List.replicate 8 1
    (small 8 0).busy = false ∧ (small 8 0).cfg.wf = true ∧ b.length ≤ (small 8 0).cfg.bufBytes
      ∧ ({ small 8 0 with schedule := ldin b } : State).schedule = ldin b ++ [] := by
  refine ⟨rfl, by decide, by decide, by simp⟩

/-- A pending command, whose step keeps the invariant. -/
theorem witness_StepKeepsTheInvariant : ((keyed testKey []).accept 0).Inv := by
  refine ⟨by decide, ⟨rfl, rfl, rfl, rfl, by decide⟩, ?_, ?_, ?_⟩
  · intro h; cases h
  · intro h; cases h
  · intro p h; cases h; exact ⟨rfl, rfl, rfl, rfl, rfl⟩

theorem witness_inv_with_table : (small 8 8).Inv := by
  refine ⟨by decide, ⟨rfl, rfl, rfl, rfl, by decide⟩, fun _ => ⟨rfl, by simp only [small]⟩, ?_, ?_⟩
  · intro h; cases h
  · intro p h; cases h

theorem witness_CommandsWorkOnTheCurrentValues : (small 8 8).Inv := witness_inv_with_table

theorem witness_ScheduleRunsToIdle :
    ∀ e ∈ ({ idle with schedule := [wr 0x00C 0, .engine, rd 0x008, .powerOn] } : State).schedule, e.oneStep := by
  simp [wr, rd, Event.oneStep, definedAccess]

/-- The last index of each range: of a rotation, of the words of an empty key, of the initial table. -/
theorem witness_indices :
    31 < 32 ∧ 0 < (keyWords []).length ∧ 3 < 4 ∧ 24 + 1 < 26 ∧ 25 < 26 ∧ ([0] : List Byte) ≠ [] := by
  decide

end Sys2Proof.Tests
end

section
/-! PROOF. The IRQ line (10_state.md R41, 60_exceptions.md R214): what a completion and the host's writes to STATUS, CTRL
and CMD leave in DONE and IE, and from that the line. -/

namespace Sys2Proof.Machine

/-! ### The line as a function of IE and DONE -/

theorem irq_iff (s : State) : s.irq = true ↔ s.ie = true ∧ s.done = true := by
  simp [State.irq]

theorem irq_of_done {s : State} (h : s.done = true) : s.irq = s.ie := by
  simp [State.irq, h]

theorem irq_eq_false_of_done {s : State} (h : s.done = false) : s.irq = false := by
  simp [State.irq, h]

theorem irq_eq_false_of_ie {s : State} (h : s.ie = false) : s.irq = false := by
  simp [State.irq, h]

/-! ### Completion -/

/-- R202: whatever the command and however it ends, DONE is set. -/
theorem ExecShape.done_eq_true {i : Instr} {s t : State} (h : ExecShape i s t) : t.done = true := by
  cases h <;> rfl

theorem ExecShape.ie_eq {i : Instr} {s t : State} (h : ExecShape i s t) : t.ie = s.ie := by
  cases h <;> rfl

/-- R202, R214: the completion of a pending word, legal or not, sets DONE and leaves IE. -/
theorem complete_done_and_ie {s t : State} (hb : s.busy = true) (h : complete s = .next t) :
    t.done = true ∧ t.ie = s.ie := by
  obtain ⟨u, hu, hcase⟩ := complete_next s
  obtain rfl : u = t := by simpa [hu] using h
  rcases hcase with ⟨hidle, -⟩ | ⟨-, rfl⟩ | ⟨p, i, -, -, hs⟩
  · simp [State.busy, hidle] at hb
  · exact ⟨rfl, rfl⟩
  · exact ⟨hs.done_eq_true, hs.ie_eq⟩

/-! ### The host's writes to STATUS, CTRL and CMD -/

/-- R57: a write to a register that acts while BUSY = 1 acts at any BUSY. -/
theorem hostWrite_writable {s : State} {off : Nat} {v : Word} (h : (regOf off).writableWhileBusy = true) :
    hostWrite s off v = s.writeReg (regOf off) v := by
  simp [hostWrite, h]

theorem hostWrite_status (s : State) (v : Word) : hostWrite s 0x008 v = s.writeStatus v :=
  hostWrite_writable rfl

theorem hostWrite_ctrl (s : State) (v : Word) : hostWrite s 0x004 v = s.writeCtrl v :=
  hostWrite_writable rfl

theorem hostWrite_cmd {s : State} (h : s.busy = false) (v : Word) : hostWrite s 0x00C v = s.accept v :=
  hostWrite_idle h

/-- R30: bit 0 = 0 clears IE, and so does a soft reset. -/
theorem writeCtrl_ie_eq_false (s : State) {v : Word} (h : v.getLsbD 0 = false) : (s.writeCtrl v).ie = false := by
  unfold State.writeCtrl
  split
  · rfl
  · exact h

/-- A step on a word write that answers a state answers the write's. -/
theorem eq_hostWrite_of_step {s t : State} {off : Nat} {v : Word} {rest : List Event} (ha : off % 4 = 0)
    (hl : off < 0x3000) (hs : s.schedule = .host (.wr .word off v) :: rest) (h : step s = .next t) :
    t = hostWrite (s.advance rest) off v := by
  simpa [step_wr ha hl hs, eq_comm] using h

/-- Settles O52: IRQ is IE and DONE, so each clause says which of the two the completion or the write sets or clears. -/
theorem irqLine : Obligations.IrqLine := by
  refine ⟨irq_iff, rfl, fun s t hb h => ?_, fun s t off v rest hs h => ⟨?_, ?_, ?_⟩⟩
  · obtain ⟨hdone, hie⟩ := complete_done_and_ie hb h
    rw [irq_of_done hdone, hie]
  · rintro rfl hv
    rw [eq_hostWrite_of_step (by decide) (by decide) hs h, hostWrite_status]
    exact irq_eq_false_of_done (by simp [hv])
  · rintro rfl hv
    rw [eq_hostWrite_of_step (by decide) (by decide) hs h, hostWrite_ctrl]
    exact irq_eq_false_of_ie (writeCtrl_ie_eq_false _ hv)
  · rintro rfl hb
    rw [eq_hostWrite_of_step (by decide) (by decide) hs h, hostWrite_cmd (s := s.advance rest) hb]
    exact irq_eq_false_of_done rfl

end Sys2Proof.Machine
end

section
/-! PROOF. Which steps are refused (20_memory.md R52): an access outside `definedAccess` is, by `hostWr` and `hostRd`;
every other event answers a next state. -/

namespace Sys2Proof.Machine

/-! ### The host's operations -/

/-- An access that R52 leaves undefined has a reason to be refused. -/
theorem exists_accessRefusal {width : Width} {off : Nat} (h : ¬ definedAccess width off) :
    ∃ r, accessRefusal width off = some r := by
  rwa [← accessRefusal_eq_none_iff, ← ne_eq, Option.ne_none_iff_exists'] at h

theorem hostWr_undefined {s : State} {width : Width} {off : Nat} {v : Word} (h : ¬ definedAccess width off) :
    ∃ r, hostWr s width off v = .refused r := by
  obtain ⟨r, hr⟩ := exists_accessRefusal h
  exact ⟨r, by simp [hostWr, hr]⟩

theorem hostRd_undefined {s : State} {width : Width} {off : Nat} (h : ¬ definedAccess width off) :
    ∃ r, hostRd s width off = .refused r := by
  obtain ⟨r, hr⟩ := exists_accessRefusal h
  exact ⟨r, by simp [hostRd, hr]⟩

/-- The engine's turn, whatever is pending, is neither a fault nor a refusal. -/
theorem exists_complete_next (s : State) : ∃ t, complete s = .next t := by
  obtain ⟨t, ht, -⟩ := complete_next s
  exact ⟨t, ht⟩

theorem hostStep_defined {op : HostOp} (s : State) (rest : List Event) (h : op.defined) :
    ∃ t, hostStep s rest op = .next t := by
  cases op with
  | wr width off v => exact ⟨_, hostWr_defined h⟩
  | rd width off => exact ⟨_, hostRd_defined h⟩
  | poll =>
    simp only [hostStep]
    split
    · exact exists_complete_next s
    · exact ⟨_, rfl⟩
  | waitIrq =>
    simp only [hostStep]
    split
    · exact ⟨_, rfl⟩
    · exact exists_complete_next s
  | rdout => exact ⟨_, rfl⟩

/-- Only `WR` and `RD` name a width and an offset, so only they can be undefined. -/
theorem hostStep_undefined {op : HostOp} (s : State) (rest : List Event) (h : ¬ op.defined) :
    ∃ r, hostStep s rest op = .refused r := by
  cases op with
  | wr width off v => exact hostWr_undefined h
  | rd width off => exact hostRd_undefined h
  | poll => exact absurd trivial h
  | waitIrq => exact absurd trivial h
  | rdout => exact absurd trivial h

/-! ### The step -/

theorem step_host {s : State} {op : HostOp} {rest : List Event} (hs : s.schedule = .host op :: rest) :
    step s = hostStep s rest op := by
  simp [step, nextEvent, hs]

/-- With no undefined access next, the step answers a state. -/
theorem step_defined {s : State} (h : ∀ op rest, s.schedule = .host op :: rest → op.defined) :
    ∃ t, step s = .next t := by
  unfold step nextEvent
  split
  · exact exists_complete_next s
  · exact exists_complete_next _
  · exact ⟨_, rfl⟩
  next op rest hs => exact hostStep_defined s rest (h op rest hs)

/-- With an undefined access next, the step is refused. -/
theorem step_undefined {s : State} (h : ∃ op rest, s.schedule = .host op :: rest ∧ ¬ op.defined) :
    ∃ r, step s = .refused r := by
  obtain ⟨op, rest, hs, hop⟩ := h
  rw [step_host hs]
  exact hostStep_undefined s rest hop

/-- Settles O51: the next operation is an undefined access, and the step is refused, or it is not, and the step
answers a state; the two outcomes exclude each other and a fault. -/
theorem onlyUndefinedAccessesAreRefused : Obligations.OnlyUndefinedAccessesAreRefused := by
  intro s
  by_cases h : ∃ op rest, s.schedule = .host op :: rest ∧ ¬ op.defined
  · obtain ⟨r, hr⟩ := step_undefined h
    obtain ⟨op, rest, hs, hop⟩ := h
    have hnot : ¬ ∀ op rest, s.schedule = .host op :: rest → op.defined := fun hall => hop (hall op rest hs)
    exact ⟨iff_of_true ⟨r, hr⟩ ⟨op, rest, hs, hop⟩, iff_of_false (by simp [hr]) hnot, by simp [hr]⟩
  · have hall : ∀ op rest, s.schedule = .host op :: rest → op.defined := by
      simpa using h
    obtain ⟨t, ht⟩ := step_defined hall
    exact ⟨iff_of_false (by simp [ht]) h, iff_of_true ⟨t, ht⟩ hall, by simp [ht]⟩

end Sys2Proof.Machine
end

section
/-! PROOF. What an illegal word does (30_encoding.md R73, R75): whatever the decoder takes is legal, so a word that is not
legal has no command, and its completion is `raise`. -/

namespace Sys2Proof

/-! ### R73's conditions -/

theorem CmdFields.legal_iff (f : CmdFields) :
    f.legal = true ↔ f.op.toNat ≤ 0xB ∧ (f.high = 0 ∧ f.bit7 = false) ∧ (f.op = 0x5 ∨ f.ofmt = 0)
      ∧ (f.op = 0x5 → f.ofmt ≠ 3) ∧ (f.op = 0x5 ∨ f.op = 0x8 ∨ f.hexsep = false)
      ∧ (f.op = 0x5 → f.hexsep = true → f.ofmt = 0) ∧ (f.op = 0x6 ∨ f.ifmt = 0 ∧ f.nostrip = false)
      ∧ (f.op = 0x6 → f.ifmt.toNat ≤ 1) := by
  simp [legal, opDefined, reservedZero, ofmtOnlyEnc, ofmtDefined, hexsepOnlyHex, hexsepWithHex, decOptionsOnlyDec,
    ifmtDefined, and_assoc, or_assoc, imp_iff_not_or]

/-- R75: no legal word has a reserved encoding. For OFMT and IFMT it matters whether the opcode takes the field: where
it does, the reserved values are excluded, and elsewhere the field is 0. -/
theorem CmdFields.not_reserved_of_legal {f : CmdFields} (h : f.legal = true) :
    ¬ (0xC ≤ f.op.toNat ∨ f.ofmt = 3 ∨ 2 ≤ f.ifmt.toNat ∨ f.bit7 = true ∨ f.high ≠ 0) := by
  obtain ⟨hop, ⟨hhigh, hbit⟩, hofmtEnc, hofmt, -, -, hifmtDec, hifmt⟩ := f.legal_iff.mp h
  rintro (hr | hr | hr | hr | hr)
  · omega
  · rcases hofmtEnc with hEnc | h0
    · exact hofmt hEnc hr
    · simp [h0] at hr
  · rcases hifmtDec with hDec | ⟨h0, -⟩
    · have := hifmt hDec
      omega
    · simp [h0] at hr
  · simp [hbit] at hr
  · exact hr hhigh

/-! ### What the decoder takes is legal -/

section
variable {f : CmdFields} {i j : Instr}

theorem options_of_decodePlain (h : decodePlain f i = .ok j) :
    f.ofmt = 0 ∧ f.hexsep = false ∧ f.ifmt = 0 ∧ f.nostrip = false := by
  unfold decodePlain at h
  split at h
  · assumption
  · cases h

theorem options_of_decodeEnc (h : decodeEnc f = .ok i) :
    f.ifmt = 0 ∧ f.nostrip = false ∧ f.ofmt ≠ 3 ∧ (f.hexsep = true → f.ofmt = 0) := by
  unfold decodeEnc at h
  split at h
  next hopt =>
    refine ⟨hopt.1, hopt.2, fun h3 => ?_, fun hsep => ?_⟩
    · simp [h3] at h
    · refine BitVec.eq_of_toNat_eq ?_
      rw [hsep] at h
      split at h <;> simp_all
  next => cases h

theorem options_of_decodeDec (h : decodeDec f = .ok i) : f.ofmt = 0 ∧ f.hexsep = false ∧ f.ifmt.toNat ≤ 1 := by
  unfold decodeDec at h
  split at h
  next hopt =>
    refine ⟨hopt.1, hopt.2, ?_⟩
    split at h <;> simp_all
  next => cases h

theorem options_of_decodeHexEnc (h : decodeHexEnc f = .ok i) : f.ofmt = 0 ∧ f.ifmt = 0 ∧ f.nostrip = false := by
  unfold decodeHexEnc at h
  split at h
  · assumption
  · cases h

section
variable (hhigh : f.high = 0) (hbit : f.bit7 = false)
include hhigh hbit

theorem legal_of_decodePlain (hop : f.op.toNat ≤ 0xB) (h : decodePlain f i = .ok j) : f.legal = true := by
  obtain ⟨hofmt, hsep, hifmt, hstrip⟩ := options_of_decodePlain h
  simp [CmdFields.legal_iff, hop, hhigh, hbit, hofmt, hsep, hifmt, hstrip]

theorem legal_of_decodeEnc (hop : f.op = 0x5) (h : decodeEnc f = .ok i) : f.legal = true := by
  obtain ⟨hifmt, hstrip, hofmt, hsep⟩ := options_of_decodeEnc h
  simpa [CmdFields.legal_iff, hop, hhigh, hbit, hifmt, hstrip] using And.intro hofmt hsep

theorem legal_of_decodeDec (hop : f.op = 0x6) (h : decodeDec f = .ok i) : f.legal = true := by
  obtain ⟨hofmt, hsep, hifmt⟩ := options_of_decodeDec h
  simp [CmdFields.legal_iff, hop, hhigh, hbit, hofmt, hsep, hifmt]

theorem legal_of_decodeHexEnc (hop : f.op = 0x8) (h : decodeHexEnc f = .ok i) : f.legal = true := by
  obtain ⟨hofmt, hifmt, hstrip⟩ := options_of_decodeHexEnc h
  simp [CmdFields.legal_iff, hop, hhigh, hbit, hofmt, hifmt, hstrip]

end

/-- R73: the decoder answers a command for legal fields only. By the rows of R72: ENC, DEC and HEX_ENC (cases 6, 7 and
9) have options of their own, an opcode from 0xC on (case 13) has no command, and the others take no option. -/
theorem legal_of_decodeFields (h : decodeFields f = .ok i) : f.legal = true := by
  unfold decodeFields at h
  split at h
  next => cases h
  next hhigh =>
  split at h
  next => cases h
  next hbit =>
  rw [ne_eq, not_not] at hhigh
  rw [Bool.not_eq_true] at hbit
  split at h
  case h_6 hop => exact legal_of_decodeEnc hhigh hbit (BitVec.eq_of_toNat_eq hop) h
  case h_7 hop => exact legal_of_decodeDec hhigh hbit (BitVec.eq_of_toNat_eq hop) h
  case h_9 hop => exact legal_of_decodeHexEnc hhigh hbit (BitVec.eq_of_toNat_eq hop) h
  case h_13 => cases h
  all_goals
    next hop => exact legal_of_decodePlain hhigh hbit (by omega) h

end

theorem exists_decode_error_of_illegal {w : Word} (h : (unpack w).legal = false) : ∃ e, decode w = .error e := by
  cases hd : decode w with
  | ok i => simp [legal_of_decodeFields hd] at h
  | error e => exact ⟨e, rfl⟩

end Sys2Proof

namespace Sys2Proof.Machine

/-! ### The completion of an illegal word -/

/-- R201: the engine's turn on a word that the decoder rejects, for whatever reason. -/
theorem complete_rejected {s : State} {p : Pending} {e : DecodeError} (hp : s.pending = some p)
    (hd : decode p.cmd = .error e) : complete s = .next (s.raise .illegalCmd .none) := by
  simp [complete, hp, hd]

theorem raised_complete_of_illegal {s : State} {p : Pending} (hp : s.pending = some p)
    (h : (unpack p.cmd).legal = false) : Raised (complete s) s .illegalCmd .none := by
  obtain ⟨e, hd⟩ := exists_decode_error_of_illegal h
  rw [complete_rejected hp hd]
  exact raised_raise s .illegalCmd .none

/-- Settles O9: an illegal word is rejected by the decoder, and a word with a reserved encoding is illegal. -/
theorem illegalWordsOnlyReportIllegalCmd : Obligations.IllegalWordsOnlyReportIllegalCmd := by
  intro s p hp
  refine ⟨raised_complete_of_illegal hp, fun hr => raised_complete_of_illegal hp ?_⟩
  rw [← Bool.not_eq_true]
  exact fun hlegal => CmdFields.not_reserved_of_legal hlegal hr

end Sys2Proof.Machine
end

section
/-! PROOF. The key scheduler (40_key_scheduler.md R100 to R106): what the bytes of a normalized key, the words of a key
and the words of the initial table are, and from that what KEY_SET and KSCHED write. -/

namespace Sys2Proof.Machine

/-! ### KeyNormalize (R100) -/

@[simp] theorem keyNormalize_getElem (b : List Byte) {i : Nat} (h : i < 16) : (keyNormalize b)[i] = b.getD i 0 := by
  simp [keyNormalize]

/-- Settles O32: byte `i` of the normalized key is `b.getD i 0`, read inside `b` and past its end. -/
theorem keyNormalization : Obligations.KeyNormalization := by
  intro b i
  rw [Fin.getElem_fin, keyNormalize_getElem]
  split
  next h => exact (List.getElem_eq_getD 0).symm
  next h => exact List.getD_eq_default _ _ (Nat.le_of_not_lt h)

/-! ### KeyWords (R101) -/

@[simp] theorem keyWords_length (b : List Byte) : (keyWords b).length = keyWordCount b := by
  simp [keyWords]

theorem keyWords_getD (b : List Byte) {j : Nat} (h : j < keyWordCount b) :
    (keyWords b).getD j 0
      = le32 (b.getD (4 * j) 0) (b.getD (4 * j + 1) 0) (b.getD (4 * j + 2) 0) (b.getD (4 * j + 3) 0) := by
  simp [keyWords, h]

/-- Settles O33: a word is the LE32 of its group of four bytes, and `le32_byte` reads each of the four back. -/
theorem keyWordsAreLittleEndian : Obligations.KeyWordsAreLittleEndian := by
  refine fun b => ⟨keyWords_length b, fun j n hj hn => ?_⟩
  rw [keyWords_length] at hj
  rw [keyWords_getD b hj]
  obtain ⟨h0, h1, h2, h3⟩ :=
    le32_byte (b.getD (4 * j) 0) (b.getD (4 * j + 1) 0) (b.getD (4 * j + 2) 0) (b.getD (4 * j + 3) 0)
  match n, hn with
  | 0, _ => exact h0
  | 1, _ => exact h1
  | 2, _ => exact h2
  | 3, _ => exact h3

/-! ### InitTable (R102) -/

@[simp] theorem initTable_getElem (p q : Word) {i : Nat} (h : i < 26) : (initTable p q)[i] = initWord p q i := by
  simp [initTable]

/-- The recurrence of R102 in closed form: `P + i*Q` modulo 2^32. -/
theorem initWord_eq (p q : Word) (i : Nat) : initWord p q i = p + BitVec.ofNat 32 i * q := by
  induction i with
  | zero => simp [initWord]
  | succ i ih => rw [initWord, ih, BitVec.ofNat_add, BitVec.add_mul, BitVec.one_mul, BitVec.add_assoc]

/-- Settles O34: each word of the table is `initWord`, whose recurrence is its definition and whose closed form is
`initWord_eq`. -/
theorem initialTable : Obligations.InitialTable := by
  refine fun p q => ⟨?_, fun i h => ?_, fun i h => ?_⟩
  · rw [initTable_getElem, initWord]
  · rw [initTable_getElem, initTable_getElem, initWord]
  · rw [initTable_getElem, initWord_eq]

/-! ### KEY_SET (R105) -/

/-- Past the bytes read, `getD` answers the zero byte that KeyNormalize pads with. -/
theorem inputBytes_getD (s : State) (n a : Nat) :
    (s.inputBytes n).getD a 0 = if a < n then s.operandByte a else 0 := by
  split
  next h => exact Memory.readBytes_getD _ _ _ _ _ h
  next h => exact List.getD_eq_default _ _ (by simpa [State.inputBytes] using h)

/-- R105 reads at most 16 bytes: below 16, `i < min INLEN 16` is `i < INLEN`. -/
theorem keyNormalize_inputBytes_getElem (s : State) {i : Nat} (h : i < 16) :
    (keyNormalize (s.inputBytes (min s.inputLen 16)))[i] = if i < s.inputLen then s.operandByte i else 0 := by
  rw [keyNormalize_getElem, inputBytes_getD]
  simp [h]

theorem exec_keySet_ok {s : State} (h : s.inputLen ≤ s.cfg.bufBytes) :
    exec .keySet s
      = .next ((s.commitKey (keyNormalize (s.inputBytes (min s.inputLen 16)))).succeed .none false) :=
  checkInput_ok h

theorem exec_keySet_overflow {s : State} (h : s.cfg.bufBytes < s.inputLen) :
    exec .keySet s = .next (s.raise .overflow .none) :=
  checkInput_overflow h

/-- Settles O17, by the two outcomes of R26's check of INLEN. -/
theorem keySetLoadsTheNormalizedKey : Obligations.KeySetLoadsTheNormalizedKey := by
  refine ⟨by decide, fun s => ⟨fun h => ?_, fun h => ?_⟩⟩
  · exact ⟨_, exec_keySet_ok h, ended_succeed _ _ _, fun i => keyNormalize_inputBytes_getElem s i.isLt, by simp⟩
  · rw [exec_keySet_overflow h]
    exact raised_raise s .overflow .none

/-! ### KSCHED (R106) -/

theorem exec_ksched_ok {s : State} (h : s.operands.keyValid = true) :
    exec .ksched s = .next ((s.commitTable s.freshTable).succeed .none false) :=
  requireKey_ok h

theorem exec_ksched_noKey {s : State} (h : s.operands.keyValid = false) :
    exec .ksched s = .next (s.raise .noKey .none) :=
  requireKey_noKey h

/-- Settles O18, by the two values of KEYVALID; `freshTable` is KS of the captured key. -/
theorem kschedBuildsTheTable : Obligations.KschedBuildsTheTable := by
  refine ⟨by decide, fun s => ⟨fun h => ?_, fun h => ?_⟩⟩
  · exact ⟨_, exec_ksched_ok h, ended_succeed _ _ _, by simp [State.freshTable]⟩
  · rw [exec_ksched_noKey h]
    exact raised_raise s .noKey .none

end Sys2Proof.Machine
end

section
/-! PROOF. The block transform (41_block_transform.md R120 to R127): bits under a rotation, bytes of a block and its words,
and EncBlock after DecBlock; from that what ENCB and DECB write. -/

namespace Sys2Proof.Machine

/-! ### Words and bytes (R123) -/

theorem toNat_append_byte {n : Nat} (x : BitVec n) (b : Byte) : (x ++ b).toNat = x.toNat * 256 + b.toNat := by
  rw [BitVec.toNat_append, ← Nat.shiftLeft_add_eq_or_of_lt b.isLt, Nat.shiftLeft_eq]

theorem le32_toNat (b0 b1 b2 b3 : Byte) :
    (le32 b0 b1 b2 b3).toNat = b0.toNat + 256 * b1.toNat + 65536 * b2.toNat + 16777216 * b3.toNat := by
  simp only [le32, toNat_append_byte]
  omega

theorem bytesLe_le32 (b0 b1 b2 b3 : Byte) : bytesLe (le32 b0 b1 b2 b3) = [b0, b1, b2, b3] := by
  obtain ⟨h0, h1, h2, h3⟩ := le32_byte b0 b1 b2 b3
  rw [bytesLe, h0, h1, h2, h3]

theorem bytesOf_wordOf (order : WordOrder) (b0 b1 b2 b3 : Byte) :
    bytesOf order (wordOf order b0 b1 b2 b3) = [b0, b1, b2, b3] := by
  cases order with
  | le => exact bytesLe_le32 b0 b1 b2 b3
  | be => exact congrArg List.reverse (bytesLe_le32 b3 b2 b1 b0)

theorem exists_bytesOf_eq_and_wordOf_eq (order : WordOrder) (w : Word) :
    ∃ b0 b1 b2 b3 : Byte, bytesOf order w = [b0, b1, b2, b3] ∧ wordOf order b0 b1 b2 b3 = w := by
  cases order with
  | le => exact ⟨_, _, _, _, rfl, le32_bytesLe w⟩
  | be => exact ⟨_, _, _, _, rfl, le32_bytesLe w⟩

/-- Settles O29, by the same law for each of the two groups of four bytes. -/
theorem wordsAndBytesAreInverse : Obligations.WordsAndBytesAreInverse := by
  refine ⟨fun order ab => ?_, fun b0 b1 b2 b3 b4 b5 b6 b7 => ⟨fun order => ?_, ?_⟩⟩
  · obtain ⟨b0, b1, b2, b3, hA, hA'⟩ := exists_bytesOf_eq_and_wordOf_eq order ab.1
    obtain ⟨b4, b5, b6, b7, hB, hB'⟩ := exists_bytesOf_eq_and_wordOf_eq order ab.2
    exact ⟨b0, b1, b2, b3, b4, b5, b6, b7, by simp [blockBytes, hA, hB], Prod.ext hA' hB'⟩
  · simp [blockBytes, blockWords, bytesOf_wordOf]
  · exact ⟨le32_toNat b0 b1 b2 b3, le32_toNat b4 b5 b6 b7, le32_toNat b3 b2 b1 b0, le32_toNat b7 b6 b5 b4⟩

/-! ### Rotations (R120, R121) -/

theorem rotl_eq_rotateLeft (x : Word) (s : Nat) : rotl x s = x.rotateLeft s := by
  by_cases h : s % 32 = 0
  · simp [rotl, BitVec.rotateLeft_def, h, BitVec.ushiftRight_eq_zero]
  · simp [rotl, BitVec.rotateLeft_def, h]

theorem rotr_eq_rotateRight (x : Word) (s : Nat) : rotr x s = x.rotateRight s := by
  by_cases h : s % 32 = 0
  · simp [rotr, BitVec.rotateRight_def, h]
  · simp [rotr, BitVec.rotateRight_def, h]

/-- R120: the bit that ROTL moves past bit 31 comes in again from bit 0. -/
theorem getLsbD_rotl (x : Word) (s : Nat) {i : Nat} (h : i < 32) :
    (rotl x s).getLsbD ((i + s) % 32) = x.getLsbD i := by
  rw [rotl_eq_rotateLeft, BitVec.getLsbD_rotateLeft]
  by_cases hwrap : (i + s) % 32 < s % 32
  · simp [hwrap, show 32 - s % 32 + (i + s) % 32 = i by omega]
  · simp [hwrap, Nat.mod_lt, show (i + s) % 32 - s % 32 = i by omega]

/-- R121: ROTR reads the bit where ROTL puts it. -/
theorem getLsbD_rotr (x : Word) (s : Nat) {i : Nat} (h : i < 32) :
    (rotr x s).getLsbD i = x.getLsbD ((i + s) % 32) := by
  rw [rotr_eq_rotateRight, BitVec.getLsbD_rotateRight]
  by_cases hlow : i < 32 - s % 32
  · simp [hlow, show s % 32 + i = (i + s) % 32 by omega]
  · simp [hlow, h, show i - (32 - s % 32) = (i + s) % 32 by omega]

/-- Every bit position is `i + s` modulo 32 for some `i`, and there both rotations have moved the same bit. -/
theorem rotl_rotr (x : Word) (s : Nat) : rotl (rotr x s) s = x := by
  apply BitVec.eq_of_getLsbD_eq
  intro j hj
  obtain ⟨i, hi, rfl⟩ : ∃ i, i < 32 ∧ (i + s) % 32 = j := ⟨(j + (32 - s % 32)) % 32, by omega, by omega⟩
  rw [getLsbD_rotl _ _ hi, getLsbD_rotr _ _ hi]

/-! ### EncBlock after DecBlock (R124, R125) -/

/-- Each half of the round finds the other word as DECB's half used it, so it rotates by the same amount (R128). -/
theorem encRound_decRound (S : RoundKeys) (ab : Word × Word) (round : Nat) :
    encRound S (decRound S ab round) round = ab := by
  simp [encRound, decRound, rotl_rotr]

/-- Rounds undone in reverse order come back: the round undone last is the one done first. -/
theorem foldl_encRound_foldl_decRound_reverse (S : RoundKeys) (rounds : List Nat) (ab : Word × Word) :
    rounds.foldl (encRound S) (rounds.reverse.foldl (decRound S) ab) = ab := by
  induction rounds with
  | nil => rfl
  | cons round rounds ih =>
    rw [List.reverse_cons, List.foldl_concat, List.foldl_cons, encRound_decRound, ih]

/-- R127's preimage: adding the key words first undoes the final subtraction, then the rounds come back. -/
theorem encBlock_decBlock (S : RoundKeys) (ab : Word × Word) : encBlock S (decBlock S ab) = ab := by
  simp only [encBlock, decBlock, BitVec.sub_add_cancel]
  exact foldl_encRound_foldl_decRound_reverse S roundNumbers ab

/-! ### ENCB (R126) -/

theorem exec_encb_ok {s : State} (h : s.operands.sValid = true) :
    exec .encb s
      = .next ((s.commitData (encBlock s.operands.sTable (s.operands.dataA, s.operands.dataB))).succeed .none false) :=
  requireTable_ok h

theorem exec_encb_noKey {s : State} (h : s.operands.sValid = false) :
    exec .encb s = .next (s.raise .noKey .none) :=
  requireTable_noKey h

/-- Settles O19, by the two values of SVALID. -/
theorem encbEncryptsTheBlock : Obligations.EncbEncryptsTheBlock := by
  refine ⟨by decide, fun s => ⟨fun h => ?_, fun h => ?_⟩⟩
  · exact ⟨_, exec_encb_ok h, ended_succeed _ _ _, rfl, by simp⟩
  · rw [exec_encb_noKey h]
    exact raised_raise s .noKey .none

/-! ### DECB (R127) -/

theorem exec_decb_ok {s : State} (h : s.operands.sValid = true) :
    exec .decb s
      = .next ((s.commitData (decBlock s.operands.sTable (s.operands.dataA, s.operands.dataB))).succeed .none false) :=
  requireTable_ok h

theorem exec_decb_noKey {s : State} (h : s.operands.sValid = false) :
    exec .decb s = .next (s.raise .noKey .none) :=
  requireTable_noKey h

/-- Settles O20, by the two values of SVALID; the preimage is `encBlock_decBlock`. -/
theorem decbDecryptsTheBlock : Obligations.DecbDecryptsTheBlock := by
  refine ⟨by decide, fun s => ⟨fun h => ?_, fun h => ?_⟩⟩
  · exact ⟨_, exec_decb_ok h, ended_succeed _ _ _, rfl, encBlock_decBlock _ _, by simp⟩
  · rw [exec_decb_noKey h]
    exact raised_raise s .noKey .none

end Sys2Proof.Machine
end

section
/-! PROOF. Padding (42_message_transform.md R140, R143): Pad appends zero bytes, Unpad takes all trailing ones away. -/

namespace Sys2Proof.Machine

/-! ### Pad (R140) -/

theorem pad_eq_self {m : List Byte} (h : m.length % 8 = 0) : pad m = m := by
  simp [pad, h]

theorem pad_length (m : List Byte) : (pad m).length = m.length + (8 - m.length % 8) % 8 := by
  simp [pad]

/-- Settles O36: the number of zero bytes is what the length lacks to its next multiple of 8. -/
theorem padIsTheLeastMultipleOfEight : Obligations.PadIsTheLeastMultipleOfEight := by
  refine fun m => ⟨(8 - m.length % 8) % 8, rfl, pad_length_mod m, Nat.mod_lt _ (by decide), pad_eq_self, ?_⟩
  intro k hk hle
  rw [pad_length]
  omega

/-! ### Unpad (R143) -/

theorem unpad_eq_rdropWhile (p : List Byte) : unpad p = p.rdropWhile (· == 0) := rfl

/-- What Unpad takes away is zero bytes. -/
theorem exists_eq_unpad_append_replicate (p : List Byte) : ∃ n, p = unpad p ++ List.replicate n 0 := by
  have hzeros : p.rtakeWhile (· == 0) = List.replicate (p.rtakeWhile (· == 0)).length 0 :=
    List.eq_replicate_of_mem fun v hv => by simpa using List.mem_rtakeWhile_imp hv
  refine ⟨(p.rtakeWhile (· == 0)).length, ?_⟩
  rw [← hzeros, unpad_eq_rdropWhile, List.rdropWhile_append_rtakeWhile]

theorem unpad_eq_nil_or_getLast?_ne_zero (p : List Byte) :
    unpad p = [] ∨ ∃ v, (unpad p).getLast? = some v ∧ v ≠ 0 := by
  refine or_iff_not_imp_left.mpr fun hne => ⟨_, List.getLast?_eq_some_getLast hne, ?_⟩
  simpa [unpad_eq_rdropWhile] using List.rdropWhile_last_not (· == 0) p hne

@[simp] theorem unpad_append_replicate (q : List Byte) (n : Nat) : unpad (q ++ List.replicate n 0) = unpad q := by
  induction n with
  | zero => simp
  | succ n ih =>
    rw [List.replicate_succ', ← List.append_assoc, unpad_eq_rdropWhile, List.rdropWhile_concat_pos _ _ _ rfl]
    exact ih

theorem unpad_eq_self_iff (p : List Byte) : unpad p = p ↔ p = [] ∨ p.getLast? ≠ some 0 := by
  rw [unpad_eq_rdropWhile, List.rdropWhile_eq_self_iff]
  by_cases hp : p = []
  · simp [hp]
  · simp [hp, List.getLast?_eq_some_getLast hp]

/-- Settles O37. What is left of `p` without some of its zero bytes has the same Unpad, which is no longer. -/
theorem unpadStripsEveryTrailingZero : Obligations.UnpadStripsEveryTrailingZero := by
  refine fun p => ⟨exists_eq_unpad_append_replicate p, unpad_eq_nil_or_getLast?_ne_zero p, ?_, unpad_eq_self_iff p⟩
  rintro q n rfl
  rw [unpad_append_replicate]
  exact unpad_length_le q

end Sys2Proof.Machine
end

section
/-! PROOF. The message commands (42_message_transform.md R145, R146): each outcome of ENC and DEC as an equation, one per
clause of the rule, and from these what the four forms of each do. -/

namespace Sys2Proof.Machine

/-! ### ENC (R145) -/

/-- The output format of each form of ENC. -/
theorem exec_eq_encMessage {i : Instr} {f : OutFmt} (s : State)
    (h : (i, f) ∈ [(Instr.encHex, OutFmt.hex false), (.encHexSep, .hex true), (.encB64, .base64), (.encRaw, .raw)]) :
    exec i s = encMessage f s := by
  simp only [List.mem_cons, Prod.mk.injEq, List.not_mem_nil, or_false] at h
  rcases h with ⟨rfl, rfl⟩ | ⟨rfl, rfl⟩ | ⟨rfl, rfl⟩ | ⟨rfl, rfl⟩ <;> rfl

section
variable {s : State} {f : OutFmt}

theorem encMessage_noKey (hk : s.operands.keyValid = false) : encMessage f s = .next (s.raise .noKey .none) :=
  requireKey_noKey hk

theorem encMessage_inputOverflow (hk : s.operands.keyValid = true) (hin : s.cfg.bufBytes < s.inputLen) :
    encMessage f s = .next (s.raise .overflow .none) :=
  (requireKey_ok hk).trans (withInput_overflow hin)

theorem encMessage_outputOverflow (hk : s.operands.keyValid = true) (hin : s.inputLen ≤ s.cfg.bufBytes)
    (hout : s.cfg.bufBytes < (s.encText f).length) : encMessage f s = .next (s.raise .overflow .none) :=
  (requireKey_ok hk).trans ((withInput_ok hin).trans (checkOutput_overflow hout))

theorem encMessage_ok (hk : s.operands.keyValid = true) (hin : s.inputLen ≤ s.cfg.bufBytes)
    (hout : (s.encText f).length ≤ s.cfg.bufBytes) :
    encMessage f s = .next (((s.commitTable s.freshTable).commitOut (s.encText f)).succeed .none false) :=
  (requireKey_ok hk).trans ((withInput_ok hin).trans (checkOutput_ok hout))

end

/-- Settles O21: one equation for each of the rule's outcomes. -/
theorem encWritesTheEncodedCiphertext : Obligations.EncWritesTheEncodedCiphertext := by
  refine ⟨by decide, by decide, by decide, by decide, fun i f s hi => ?_⟩
  rw [exec_eq_encMessage s hi]
  refine ⟨fun hk => ?_, fun hk hin => ?_, fun hk hin hout => ?_, fun hk hin hout => ?_⟩
  · rw [encMessage_noKey hk]
    exact raised_raise s .noKey .none
  · rw [encMessage_inputOverflow hk hin]
    exact raised_raise s .overflow .none
  · rw [encMessage_outputOverflow hk hin hout]
    exact raised_raise s .overflow .none
  · exact ⟨_, encMessage_ok hk hin hout, ended_succeed _ _ _, by simp [State.freshTable]⟩

/-! ### DEC (R146) -/

/-- The input format that IFMT selects, as the statements name it: AUTO or BYTES. -/
def inFmtOf (auto : Bool) : InFmt := if auto then .auto else .bytes

/-- The input format and the NOSTRIP option of each form of DEC. -/
theorem exec_eq_decMessage {i : Instr} {auto nostrip : Bool} (s : State)
    (h : (i, auto, nostrip) ∈ [(Instr.decAuto, true, false), (.decAutoNostrip, true, true), (.decBytes, false, false),
      (.decBytesNostrip, false, true)]) :
    exec i s = decMessage (inFmtOf auto) nostrip s := by
  simp only [List.mem_cons, Prod.mk.injEq, List.not_mem_nil, or_false] at h
  rcases h with ⟨rfl, rfl, rfl⟩ | ⟨rfl, rfl, rfl⟩ | ⟨rfl, rfl, rfl⟩ | ⟨rfl, rfl, rfl⟩ <;> rfl

section
variable {s : State} {auto nostrip : Bool}

theorem decMessage_noKey (hk : s.operands.keyValid = false) :
    decMessage (inFmtOf auto) nostrip s = .next (s.raise .noKey .none) :=
  requireKey_noKey hk

theorem decMessage_overflow (hk : s.operands.keyValid = true) (hin : s.cfg.bufBytes < s.inputLen) :
    decMessage (inFmtOf auto) nostrip s = .next (s.raise .overflow .none) :=
  (requireKey_ok hk).trans (withInput_overflow hin)

/-- Only AUTO finds RAW, for BYTES detects nothing. -/
theorem decMessage_raw (hk : s.operands.keyValid = true) (hin : s.inputLen ≤ s.cfg.bufBytes)
    (hraw : (s.decSource auto).1 = .raw) :
    decMessage (inFmtOf auto) nostrip s = .next (s.raise .unsupportedFormat .raw) := by
  refine (requireKey_ok hk).trans ((withInput_ok hin).trans ?_)
  cases auto with
  | false => cases hraw
  | true => exact if_pos hraw

theorem decMessage_eq_decCiphertext (hk : s.operands.keyValid = true) (hin : s.inputLen ≤ s.cfg.bufBytes)
    (hraw : (s.decSource auto).1 ≠ .raw) :
    decMessage (inFmtOf auto) nostrip s = decCiphertext (s.decSource auto).1 nostrip (s.decSource auto).2 s := by
  refine (requireKey_ok hk).trans ((withInput_ok hin).trans ?_)
  cases auto with
  | false => rfl
  | true => exact if_neg hraw

end

theorem decCiphertext_invalidLength {s : State} {f : Fmt} {nostrip : Bool} {c : List Byte} (h : c.length % 8 ≠ 0) :
    decCiphertext f nostrip c s = .next (s.raise .invalidLength f) :=
  if_pos h

theorem decCiphertext_ok {s : State} {f : Fmt} {nostrip : Bool} {c : List Byte} (h : c.length % 8 = 0) :
    decCiphertext f nostrip c s
      = .next (((s.commitTable s.freshTable).commitOut (decOutput s nostrip c)).succeed f
          (textAccept s.cfg.textRule (decOutput s nostrip c))) :=
  if_neg (not_not.mpr h)

/-- Settles O22: one equation for each of the rule's outcomes. -/
theorem decWritesThePlaintext : Obligations.DecWritesThePlaintext := by
  refine ⟨by decide, by decide, by decide, by decide, fun i auto nostrip s hi => ?_⟩
  rw [exec_eq_decMessage s hi]
  refine ⟨fun hk => ?_, fun hk hin => ?_, fun hk hin hraw => ?_, fun hk hin hraw hlen => ?_,
    fun hk hin hraw hlen => ?_⟩
  · rw [decMessage_noKey hk]
    exact raised_raise s .noKey .none
  · rw [decMessage_overflow hk hin]
    exact raised_raise s .overflow .none
  · rw [decMessage_raw hk hin hraw]
    exact raised_raise s .unsupportedFormat .raw
  · rw [decMessage_eq_decCiphertext hk hin hraw, decCiphertext_invalidLength hlen]
    exact raised_raise s .invalidLength _
  · rw [decMessage_eq_decCiphertext hk hin hraw, decCiphertext_ok hlen, decOutput_decSource]
    exact ⟨_, rfl, ended_succeed _ _ _, by simp [State.freshTable]⟩

end Sys2Proof.Machine
end

section
/-! PROOF. Determinism of commands (42_message_transform.md R150): what a command does is a value, an `Effect`, and two
states that agree on what the command reads (`SameReads`) give the same one. -/

namespace Sys2Proof.Machine

/-! ### What a command does, as a value -/

/-- The end of a command apart from the state it ends in: what it commits and which completion fields it writes. -/
inductive Effect where
  /-- nothing is committed: an error, NOP or DETECT -/
  | finish (e : ErrCode) (f : Fmt) (text : Bool)
  | key (k : WorkingKey)
  | table (k : RoundKeys)
  | data (ab : Word × Word)
  /-- ENC and DEC -/
  | message (k : RoundKeys) (o : List Byte) (f : Fmt) (text : Bool)
  /-- the helpers that produce output -/
  | output (o : List Byte)

/-- The state in which a command with this effect ends. -/
def Effect.apply (s : State) : Effect → State
  | .finish e f text => s.finish e f text
  | .key k => (s.commitKey k).succeed .none false
  | .table k => (s.commitTable k).succeed .none false
  | .data ab => (s.commitData ab).succeed .none false
  | .message k o f text => ((s.commitTable k).commitOut o).succeed f text
  | .output o => (s.commitOut o).succeed .none false

namespace Effect

/-! Which elements an effect writes, and with which values, does not depend on the state it acts on. -/

section
variable (x : Effect) (s s' : State)

theorem status_agree :
    (x.apply s).err = (x.apply s').err ∧ (x.apply s).fmt = (x.apply s').fmt
      ∧ (x.apply s).textOk = (x.apply s').textOk ∧ (x.apply s).done = (x.apply s').done
      ∧ (x.apply s).busy = (x.apply s').busy := by
  cases x <;> exact ⟨rfl, rfl, rfl, rfl, rfl⟩

theorem key_agree :
    SameKey s (x.apply s) ∧ SameKey s' (x.apply s')
      ∨ (x.apply s).key = (x.apply s').key ∧ (x.apply s).keyValid = (x.apply s').keyValid := by
  cases x with
  | key => exact .inr ⟨rfl, rfl⟩
  | finish | table | data | message | output => exact .inl ⟨⟨rfl, rfl⟩, rfl, rfl⟩

/-- The middle way is KEY_SET's, which clears SVALID and keeps S (R105). -/
theorem table_agree :
    SameTable s (x.apply s) ∧ SameTable s' (x.apply s')
      ∨ ((x.apply s).sTable = s.sTable ∧ (x.apply s').sTable = s'.sTable
          ∨ (x.apply s).sTable = (x.apply s').sTable) ∧ (x.apply s).sValid = (x.apply s').sValid := by
  cases x with
  | key => exact .inr ⟨.inl ⟨rfl, rfl⟩, rfl⟩
  | table | message => exact .inr ⟨.inr rfl, rfl⟩
  | finish | data | output => exact .inl ⟨⟨rfl, rfl⟩, rfl, rfl⟩

theorem data_agree :
    SameData s (x.apply s) ∧ SameData s' (x.apply s')
      ∨ (x.apply s).dataA = (x.apply s').dataA ∧ (x.apply s).dataB = (x.apply s').dataB := by
  cases x with
  | data => exact .inr ⟨rfl, rfl⟩
  | finish | key | table | message | output => exact .inl ⟨⟨rfl, rfl⟩, rfl, rfl⟩

theorem out_agree :
    SameOut s (x.apply s) ∧ SameOut s' (x.apply s')
      ∨ (x.apply s).outlen = (x.apply s').outlen
        ∧ ∃ o, WroteOut s (x.apply s) o ∧ WroteOut s' (x.apply s') o := by
  cases x with
  | message k o =>
    exact .inr ⟨rfl, o, wroteOut_commitTable_commitOut s k o, wroteOut_commitTable_commitOut s' k o⟩
  | output o => exact .inr ⟨rfl, o, wroteOut_commitOut s o, wroteOut_commitOut s' o⟩
  | finish | key | table | data => exact .inl ⟨sameOut_refl s, sameOut_refl s'⟩

theorem sameSetup : SameSetup s (x.apply s) := by
  cases x <;> exact sameSetup_refl s

end

end Effect

/-! ### Commands on two states -/

/-- Two runs end with the same effect, each on its own state. -/
def SameEffect (s s' : State) (r r' : Result) : Prop :=
  ∃ x : Effect, r = .next (x.apply s) ∧ r' = .next (x.apply s')

theorem sameEffect_raise (s s' : State) (e : ErrCode) (f : Fmt) :
    SameEffect s s' (.next (s.raise e f)) (.next (s'.raise e f)) :=
  ⟨.finish e f false, rfl, rfl⟩

/-! Each guard decides alike on two states that agree on what it checks. -/

section
variable {s s' : State} {body body' : Result}

theorem sameEffect_requireKey (hk : s.operands.keyValid = s'.operands.keyValid)
    (h : SameEffect s s' body body') : SameEffect s s' (requireKey s body) (requireKey s' body') := by
  unfold requireKey
  rw [← hk]
  split
  · exact h
  · exact sameEffect_raise s s' _ _

theorem sameEffect_requireTable (ht : s.operands.sValid = s'.operands.sValid)
    (h : SameEffect s s' body body') : SameEffect s s' (requireTable s body) (requireTable s' body') := by
  unfold requireTable
  rw [← ht]
  split
  · exact h
  · exact sameEffect_raise s s' _ _

section
variable (hcfg : s.cfg = s'.cfg)
include hcfg

theorem sameEffect_checkInput (hlen : s.operands.inlen = s'.operands.inlen)
    (h : SameEffect s s' body body') : SameEffect s s' (checkInput s body) (checkInput s' body') := by
  unfold checkInput
  rw [← hcfg, ← hlen]
  split
  · exact sameEffect_raise s s' _ _
  · exact h

theorem sameEffect_checkOutput {o o' : List Byte} (ho : o = o')
    (h : SameEffect s s' body body') : SameEffect s s' (checkOutput s o body) (checkOutput s' o' body') := by
  unfold checkOutput
  rw [← hcfg, ← ho]
  split
  · exact sameEffect_raise s s' _ _
  · exact h

theorem freshTable_congr (hkey : s.operands.key = s'.operands.key) : s.freshTable = s'.freshTable := by
  rw [State.freshTable, State.freshTable, hcfg, hkey]

theorem encOutput_congr (ht : s.freshTable = s'.freshTable) (f : OutFmt) (m : List Byte) :
    encOutput s f m = encOutput s' f m := by
  rw [encOutput, encOutput, hcfg, ht]

theorem decOutput_congr (ht : s.freshTable = s'.freshTable) (nostrip : Bool) (c : List Byte) :
    decOutput s nostrip c = decOutput s' nostrip c := by
  rw [decOutput, decOutput, hcfg, ht]

theorem sameEffect_decCiphertext (ht : s.freshTable = s'.freshTable) (f : Fmt) (nostrip : Bool) (c : List Byte) :
    SameEffect s s' (decCiphertext f nostrip c s) (decCiphertext f nostrip c s') := by
  by_cases hlen : c.length % 8 = 0
  · rw [decCiphertext_ok hlen, decCiphertext_ok hlen, ← ht, ← hcfg, ← decOutput_congr hcfg ht]
    exact ⟨.message _ _ _ _, rfl, rfl⟩
  · rw [decCiphertext_invalidLength hlen, decCiphertext_invalidLength hlen]
    exact sameEffect_raise s s' _ _

end
end

/-! ### What `SameReads` gives a command -/

section
variable {i : Instr} {s s' : State} (h : SameReads i s s')
include h

theorem SameReads.cfg_eq : s.cfg = s'.cfg := h.1

theorem SameReads.keyValid_eq (hi : i ∈ needsKey) : s.operands.keyValid = s'.operands.keyValid := (h.2.1 hi).1

theorem SameReads.freshTable_eq (hi : i ∈ needsKey) : s.freshTable = s'.freshTable :=
  freshTable_congr h.cfg_eq (h.2.1 hi).2

theorem SameReads.inlen_eq (hi : i ∈ readsInput) : s.operands.inlen = s'.operands.inlen := by
  obtain ⟨-, -, -, hinput⟩ := h
  exact (hinput hi).1

theorem SameReads.message_eq (hi : i ∈ readsInput) (hk : i ≠ .keySet) : s.message = s'.message := by
  obtain ⟨-, -, -, hinput⟩ := h
  obtain ⟨hlen, hbytes⟩ := hinput hi
  exact message_congr hlen fun a ha => hbytes a ha fun hki => absurd hki hk

/-- A guarded command that reads the whole input: it suffices that the bodies agree on one and the same message. -/
theorem SameReads.sameEffect_withInput {body body' : List Byte → Result} (hi : i ∈ readsInput) (hk : i ≠ .keySet)
    (hbody : ∀ m, SameEffect s s' (body m) (body' m)) :
    SameEffect s s' (withInput s body) (withInput s' body') := by
  refine sameEffect_checkInput h.cfg_eq (h.inlen_eq hi) ?_
  change SameEffect s s' (body s.message) (body' s'.message)
  rw [← h.message_eq hi hk]
  exact hbody s.message

theorem SameReads.sameEffect_encMessage (hk : i ∈ needsKey) (hi : i ∈ readsInput) (hn : i ≠ .keySet) (f : OutFmt) :
    SameEffect s s' (encMessage f s) (encMessage f s') := by
  have ht := h.freshTable_eq hk
  refine sameEffect_requireKey (h.keyValid_eq hk) (h.sameEffect_withInput hi hn fun m => ?_)
  have ho := encOutput_congr h.cfg_eq ht f m
  rw [← ho, ← ht]
  exact sameEffect_checkOutput h.cfg_eq rfl ⟨.message _ _ _ _, rfl, rfl⟩

theorem SameReads.sameEffect_decMessage (hk : i ∈ needsKey) (hi : i ∈ readsInput) (hn : i ≠ .keySet) (f : InFmt)
    (nostrip : Bool) : SameEffect s s' (decMessage f nostrip s) (decMessage f nostrip s') := by
  have ht := h.freshTable_eq hk
  refine sameEffect_requireKey (h.keyValid_eq hk) (h.sameEffect_withInput hi hn fun m => ?_)
  cases f with
  | bytes => exact sameEffect_decCiphertext h.cfg_eq ht _ _ _
  | auto =>
    dsimp only
    split
    · exact sameEffect_raise s s' _ _
    · exact sameEffect_decCiphertext h.cfg_eq ht _ _ _

theorem SameReads.sameEffect_encodeHelper (hi : i ∈ readsInput) (hn : i ≠ .keySet) (f : List Byte → List Byte) :
    SameEffect s s' (encodeHelper f s) (encodeHelper f s') :=
  h.sameEffect_withInput hi hn fun _ => sameEffect_checkOutput h.cfg_eq rfl ⟨.output _, rfl, rfl⟩

theorem SameReads.sameEffect_decodeHelper (hi : i ∈ readsInput) (hn : i ≠ .keySet) (valid : List Byte → Bool)
    (f : List Byte → List Byte) : SameEffect s s' (decodeHelper valid f s) (decodeHelper valid f s') := by
  refine h.sameEffect_withInput hi hn fun m => ?_
  split
  · exact ⟨.output _, rfl, rfl⟩
  · exact sameEffect_raise s s' _ _

end

/-- R105 reads the first 16 input bytes only. -/
theorem SameReads.keySet_bytes {s s' : State} (h : SameReads .keySet s s') :
    s.inputBytes (min s.operands.inlen.toNat 16) = s'.inputBytes (min s'.operands.inlen.toNat 16) := by
  obtain ⟨-, -, -, hinput⟩ := h
  obtain ⟨hlen, hbytes⟩ := hinput (by decide)
  rw [← hlen]
  refine Memory.readBytes_congr _ _ _ _ _ _ fun a ha => hbytes a ?_ fun _ => ?_
  · exact lt_of_lt_of_le ha (min_le_left _ _)
  · exact lt_of_lt_of_le ha (min_le_right _ _)

theorem SameReads.sameEffect_execKeySet {s s' : State} (h : SameReads .keySet s s') :
    SameEffect s s' (execKeySet s) (execKeySet s') := by
  refine sameEffect_checkInput h.cfg_eq (h.inlen_eq (by decide)) ?_
  rw [← h.keySet_bytes]
  exact ⟨.key _, rfl, rfl⟩

theorem SameReads.sameEffect_execKsched {s s' : State} (h : SameReads .ksched s s') :
    SameEffect s s' (execKsched s) (execKsched s') := by
  refine sameEffect_requireKey (h.keyValid_eq (by decide)) ?_
  rw [← h.freshTable_eq (by decide)]
  exact ⟨.table _, rfl, rfl⟩

/-- ENCB and DECB differ in the block function only. -/
theorem SameReads.sameEffect_blockCommand {i : Instr} {s s' : State} (h : SameReads i s s') (hi : i ∈ needsTable)
    (f : RoundKeys → Word × Word → Word × Word) :
    SameEffect s s'
      (requireTable s
        (.next ((s.commitData (f s.operands.sTable (s.operands.dataA, s.operands.dataB))).succeed .none false)))
      (requireTable s'
        (.next ((s'.commitData (f s'.operands.sTable (s'.operands.dataA, s'.operands.dataB))).succeed .none
          false))) := by
  obtain ⟨-, -, htable, -⟩ := h
  obtain ⟨hvalid, hS, hA, hB⟩ := htable hi
  refine sameEffect_requireTable hvalid ?_
  rw [← hS, ← hA, ← hB]
  exact ⟨.data _, rfl, rfl⟩

/-- Every command is a function of what it reads. -/
theorem SameReads.sameEffect_exec {i : Instr} {s s' : State} (h : SameReads i s s') :
    SameEffect s s' (exec i s) (exec i s') := by
  cases i with
  | nop => exact ⟨.finish .ok .none false, rfl, rfl⟩
  | keySet => exact h.sameEffect_execKeySet
  | ksched => exact h.sameEffect_execKsched
  | encb => exact h.sameEffect_blockCommand (by decide) encBlock
  | decb => exact h.sameEffect_blockCommand (by decide) decBlock
  | encHex => exact h.sameEffect_encMessage (by decide) (by decide) (by decide) (.hex false)
  | encHexSep => exact h.sameEffect_encMessage (by decide) (by decide) (by decide) (.hex true)
  | encB64 => exact h.sameEffect_encMessage (by decide) (by decide) (by decide) .base64
  | encRaw => exact h.sameEffect_encMessage (by decide) (by decide) (by decide) .raw
  | decAuto => exact h.sameEffect_decMessage (by decide) (by decide) (by decide) .auto false
  | decAutoNostrip => exact h.sameEffect_decMessage (by decide) (by decide) (by decide) .auto true
  | decBytes => exact h.sameEffect_decMessage (by decide) (by decide) (by decide) .bytes false
  | decBytesNostrip => exact h.sameEffect_decMessage (by decide) (by decide) (by decide) .bytes true
  | detect =>
    exact h.sameEffect_withInput (by decide) (by decide) fun m => ⟨.finish .ok (detectFmt m) false, rfl, rfl⟩
  | hexEnc => exact h.sameEffect_encodeHelper (by decide) (by decide) (hexEncode false)
  | hexEncSep => exact h.sameEffect_encodeHelper (by decide) (by decide) (hexEncode true)
  | hexDec => exact h.sameEffect_decodeHelper (by decide) (by decide) isHex hexDecode
  | b64Enc => exact h.sameEffect_encodeHelper (by decide) (by decide) b64Encode
  | b64Dec => exact h.sameEffect_decodeHelper (by decide) (by decide) b64Valid b64Decode

/-! ### ENC in particular -/

/-- An ENC that reports no error has written its output and the table. -/
theorem eq_of_encMessage_of_err_ok {s t : State} {f : OutFmt} (h : encMessage f s = .next t) (herr : t.err = .ok) :
    t = ((s.commitTable s.freshTable).commitOut (s.encText f)).succeed .none false := by
  cases hk : s.operands.keyValid with
  | false =>
    cases (encMessage_noKey hk).symm.trans h
    cases herr
  | true =>
    rcases Nat.lt_or_ge s.cfg.bufBytes s.inputLen with hin | hin
    · cases (encMessage_inputOverflow hk hin).symm.trans h
      cases herr
    rcases Nat.lt_or_ge s.cfg.bufBytes (s.encText f).length with hout | hout
    · cases (encMessage_outputOverflow hk hin hout).symm.trans h
      cases herr
    · exact (Host.Outcome.next.inj ((encMessage_ok hk hin hout).symm.trans h)).symm

section
variable {i : Instr} (hi : i ∈ [Instr.encHex, .encHexSep, .encB64, .encRaw])
include hi

theorem enc_operands : i ∈ needsKey ∧ i ∈ readsInput ∧ i ≠ .keySet ∧ i ∉ needsTable := by
  have h : ∀ j ∈ [Instr.encHex, .encHexSep, .encB64, .encRaw],
      j ∈ needsKey ∧ j ∈ readsInput ∧ j ≠ .keySet ∧ j ∉ needsTable := by
    decide
  exact h i hi

theorem exists_exec_eq_encMessage : ∃ f, ∀ s, exec i s = encMessage f s := by
  simp only [List.mem_cons, List.not_mem_nil, or_false] at hi
  rcases hi with rfl | rfl | rfl | rfl
  · exact ⟨.hex false, fun _ => rfl⟩
  · exact ⟨.hex true, fun _ => rfl⟩
  · exact ⟨.base64, fun _ => rfl⟩
  · exact ⟨.raw, fun _ => rfl⟩

/-- What two runs of ENC have written, when they agree on what they read and report no error. -/
theorem SameReads.enc_outputs_agree {s s' t t' : State} (h : SameReads i s s') (ht : exec i s = .next t)
    (ht' : exec i s' = .next t') (herr : t.err = .ok) (herr' : t'.err = .ok) :
    t.outlen = t'.outlen ∧ t.sTable = t'.sTable ∧ t.sValid = t'.sValid ∧ ∃ o, WroteOut s t o ∧ WroteOut s' t' o := by
  obtain ⟨hkey, hinput, hn, -⟩ := enc_operands hi
  obtain ⟨f, hf⟩ := exists_exec_eq_encMessage hi
  have htable : s.freshTable = s'.freshTable := h.freshTable_eq hkey
  have htext : s.encText f = s'.encText f := by
    rw [← encOutput_message, ← encOutput_message, h.message_eq hinput hn]
    exact encOutput_congr h.cfg_eq htable f _
  rw [eq_of_encMessage_of_err_ok ((hf s).symm.trans ht) herr,
    eq_of_encMessage_of_err_ok ((hf s').symm.trans ht') herr', ← htable, ← htext]
  exact ⟨rfl, rfl, rfl, s.encText f, wroteOut_commitTable_commitOut _ _ _, wroteOut_commitTable_commitOut _ _ _⟩

end

/-- Settles O15: both runs have the same effect, which decides what is kept and what is written; and a successful ENC
writes the encoded ciphertext, which depends on what it reads alone. -/
theorem sameInputsGiveTheSameResult : Obligations.SameInputsGiveTheSameResult := by
  refine ⟨fun i s s' h => ?_, fun i s s' hi hcfg hkey hvalid hlen hbytes => ?_⟩
  · obtain ⟨x, hx, hx'⟩ := h.sameEffect_exec
    obtain ⟨herr, hfmt, htext, hdone, hbusy⟩ := x.status_agree s s'
    exact ⟨_, _, hx, hx', herr, hfmt, htext, hdone, hbusy, x.key_agree s s', x.table_agree s s', x.data_agree s s',
      x.out_agree s s', x.sameSetup s, x.sameSetup s'⟩
  · obtain ⟨-, -, -, hn⟩ := enc_operands hi
    have h : SameReads i s s' :=
      ⟨hcfg, fun _ => ⟨hvalid, hkey⟩, fun ht => absurd ht hn, fun _ => ⟨hlen, fun a ha _ => hbytes a ha⟩⟩
    obtain ⟨x, hx, hx'⟩ := h.sameEffect_exec
    obtain ⟨herr, -⟩ := x.status_agree s s'
    exact ⟨_, _, hx, hx', herr, fun hok => h.enc_outputs_agree hi hx hx' hok (herr ▸ hok)⟩

end Sys2Proof.Machine
end

section
/-! PROOF. The format helpers (43_format_helpers.md R180 to R184): the lengths of the codecs' texts, then what the two shared
meanings, `encodeHelper` and `decodeHelper`, do, and from these the commands. -/

namespace Sys2Proof.Machine

/-! ### Lengths (R172, R174, R176) -/

@[simp] theorem hexPair_length (v : Byte) : (hexPair v).length = 2 := rfl

theorem hexEncode_length (sep : Bool) :
    ∀ b : List Byte, (hexEncode sep b).length = if sep then 3 * b.length - 1 else 2 * b.length
  | [] => by simp [hexEncode]
  | [v] => by simp [hexEncode]
  | v :: w :: rest => by
    have ih := hexEncode_length sep (w :: rest)
    simp only [hexEncode, List.length_append, hexPair_length, ih, List.length_cons]
    cases sep with
    | false => simp; omega
    | true => simp; omega

theorem hexDecode_length : ∀ t : List Byte, (hexDecode t).length = t.length / 2
  | [] => rfl
  | [_] => by simp [hexDecode]
  | _ :: _ :: rest => by
    simp only [hexDecode, List.length_cons, hexDecode_length rest]
    omega

theorem isHex_length_even {t : List Byte} (h : isHex t = true) : t.length % 2 = 0 := by
  simp only [isHex, Bool.and_eq_true, beq_iff_eq] at h
  obtain ⟨⟨-, heven⟩, -⟩ := h
  exact heven

/-- R182: the input of a HEX_DEC that decodes is twice as long as its output. -/
theorem two_mul_hexDecode_length {t : List Byte} (h : isHex t = true) : 2 * (hexDecode t).length = t.length := by
  have heven := isHex_length_even h
  rw [hexDecode_length]
  omega

/-- R176: a last group of one or two bytes takes four characters too. -/
theorem b64Encode_length : ∀ b : List Byte, (b64Encode b).length = 4 * ((b.length + 2) / 3)
  | [] => rfl
  | [_] => by simp [b64Encode]
  | [_, _] => by simp [b64Encode]
  | _ :: _ :: _ :: rest => by
    simp only [b64Encode, List.length_cons, b64Encode_length rest]
    omega

/-! ### DETECT (R180) -/

theorem exec_detect (s : State) :
    exec .detect s = withInput s fun m => .next (s.succeed (detectFmt m) false) := rfl

theorem exec_detect_ok {s : State} (h : s.inputLen ≤ s.cfg.bufBytes) :
    exec .detect s = .next (s.succeed (detectFmt s.message) false) := by
  rw [exec_detect, withInput_ok h]

theorem exec_detect_overflow {s : State} (h : s.cfg.bufBytes < s.inputLen) :
    exec .detect s = .next (s.raise .overflow .none) := by
  rw [exec_detect, withInput_overflow h]

/-- Settles O23, by the two outcomes of R26's check of INLEN. -/
theorem detectReportsTheFormat : Obligations.DetectReportsTheFormat := by
  refine ⟨by decide, fun s => ⟨fun h => ?_, fun h => ?_⟩⟩
  · exact ⟨_, exec_detect_ok h, ended_succeed _ _ _, by simp [SameExceptStatus]⟩
  · rw [exec_detect_overflow h]
    exact raised_raise s .overflow .none

/-! ### The end of a helper that produces output -/

theorem finishOutput_completes (s : State) (o : List Byte) :
    ∃ t, finishOutput s o = .next t ∧ Ended t .ok .none false ∧ WroteOut s t o
      ∧ SameKey s t ∧ SameTable s t ∧ SameData s t ∧ SameSetup s t :=
  ⟨_, rfl, ended_succeed _ _ _, by simp⟩

/-! ### The encoding helpers (R181, R183) -/

/-- The outcomes of an encoding helper whose text has `n` characters. -/
theorem encodeHelper_outcomes {f : List Byte → List Byte} {s : State} {n : Nat} (hn : (f s.message).length = n) :
    (s.cfg.bufBytes < s.inputLen → Raised (encodeHelper f s) s .overflow .none)
    ∧ (s.inputLen ≤ s.cfg.bufBytes → s.cfg.bufBytes < n → Raised (encodeHelper f s) s .overflow .none)
    ∧ (s.inputLen ≤ s.cfg.bufBytes → n ≤ s.cfg.bufBytes →
      ∃ t, encodeHelper f s = .next t ∧ Ended t .ok .none false ∧ WroteOut s t (f s.message)
        ∧ SameKey s t ∧ SameTable s t ∧ SameData s t ∧ SameSetup s t) := by
  subst hn
  refine ⟨fun hin => ?_, fun hin hout => ?_, fun hin hout => ?_⟩
  · rw [encodeHelper, withInput_overflow hin]
    exact raised_raise s .overflow .none
  · rw [encodeHelper, withInput_ok hin, checkOutput_overflow hout]
    exact raised_raise s .overflow .none
  · rw [encodeHelper, withInput_ok hin, checkOutput_ok hout]
    exact finishOutput_completes s _

/-- The separator option of each form of HEX_ENC. -/
theorem exec_eq_encodeHelper_hexEncode {i : Instr} {sep : Bool} (s : State)
    (h : (i, sep) ∈ [(Instr.hexEnc, false), (.hexEncSep, true)]) : exec i s = encodeHelper (hexEncode sep) s := by
  simp only [List.mem_cons, Prod.mk.injEq, List.not_mem_nil, or_false] at h
  rcases h with ⟨rfl, rfl⟩ | ⟨rfl, rfl⟩ <;> rfl

theorem exec_b64Enc (s : State) : exec .b64Enc s = encodeHelper b64Encode s := rfl

/-- Settles O24: the bound on the output is the length of the hex text. -/
theorem hexEncWritesTheHexText : Obligations.HexEncWritesTheHexText := by
  refine ⟨by decide, by decide, fun i sep s hi => ?_⟩
  rw [exec_eq_encodeHelper_hexEncode s hi]
  exact encodeHelper_outcomes (by rw [hexEncode_length, message_length, State.inputLen])

/-- Settles O26: the bound on the output is the length of the Base64 text. -/
theorem b64EncWritesTheBase64Text : Obligations.B64EncWritesTheBase64Text := by
  refine ⟨by decide, fun s => ?_⟩
  rw [exec_b64Enc]
  exact encodeHelper_outcomes (by rw [b64Encode_length, message_length, State.inputLen])

/-! ### The decoding helpers (R182, R184) -/

/-- The outcomes of a decoding helper. It checks no bound on the output. -/
theorem decodeHelper_outcomes (valid : List Byte → Bool) (f : List Byte → List Byte) (s : State) :
    (s.cfg.bufBytes < s.inputLen → Raised (decodeHelper valid f s) s .overflow .none)
    ∧ (s.inputLen ≤ s.cfg.bufBytes → valid (strip s.message) = false →
      Raised (decodeHelper valid f s) s .unsupportedFormat .none)
    ∧ (s.inputLen ≤ s.cfg.bufBytes → valid (strip s.message) = true →
      ∃ t, decodeHelper valid f s = .next t ∧ Ended t .ok .none false ∧ WroteOut s t (f (strip s.message))
        ∧ SameKey s t ∧ SameTable s t ∧ SameData s t ∧ SameSetup s t) := by
  refine ⟨fun hin => ?_, fun hin hvalid => ?_, fun hin hvalid => ?_⟩
  · rw [decodeHelper, withInput_overflow hin]
    exact raised_raise s .overflow .none
  · rw [decodeHelper, withInput_ok hin, if_neg (by simp [hvalid])]
    exact raised_raise s .unsupportedFormat .none
  · rw [decodeHelper, withInput_ok hin, if_pos hvalid]
    exact finishOutput_completes s _

theorem exec_hexDec (s : State) : exec .hexDec s = decodeHelper isHex hexDecode s := rfl

theorem exec_b64Dec (s : State) : exec .b64Dec s = decodeHelper b64Valid b64Decode s := rfl

/-- Settles O25: the outcomes of a decoding helper, with the length of the output. -/
theorem hexDecWritesTheBytes : Obligations.HexDecWritesTheBytes := by
  refine ⟨by decide, fun s => ?_⟩
  rw [exec_hexDec]
  obtain ⟨hoverflow, hformat, hok⟩ := decodeHelper_outcomes isHex hexDecode s
  refine ⟨hoverflow, hformat, fun hin hhex => ?_⟩
  obtain ⟨t, ht, hended, hout, hframe⟩ := hok hin hhex
  exact ⟨t, ht, hended, hout, two_mul_hexDecode_length hhex, hframe⟩

/-- Settles O27: the outcomes of a decoding helper whose only test of the input is `b64Valid`, hex digits or not. -/
theorem b64DecWritesTheBytes : Obligations.B64DecWritesTheBytes := by
  refine ⟨by decide, fun s => ?_⟩
  rw [exec_b64Dec]
  exact decodeHelper_outcomes b64Valid b64Decode s

end Sys2Proof.Machine
end

section
/-! PROOF. A write to CMD (44_control.md R201) and NOP (R203): the frame of acceptance, and what the fields of a legal
word with OP = 0 are. -/

namespace Sys2Proof

/-! ### The fields of a word and of a command without options -/

/-- R70: the fields hold every bit of the word. -/
theorem pack_unpack (w : Word) : pack (unpack w) = w := by
  apply BitVec.eq_of_getLsbD_eq
  intro i hi
  simp only [pack, unpack, BitVec.getLsbD_append, BitVec.getLsbD_ofBool, BitVec.getLsbD_extractLsb']
  interval_cases i <;> simp

theorem unpack_injective : Function.Injective unpack :=
  Function.LeftInverse.injective pack_unpack

/-- R73: only ENC, DEC and HEX_ENC have options, so the legal fields of any other opcode are the opcode alone. -/
theorem CmdFields.eq_plain_of_legal {f : CmdFields} (h : f.legal = true) (henc : f.op ≠ 0x5) (hdec : f.op ≠ 0x6)
    (hhex : f.op ≠ 0x8) : f = .plain f.op := by
  obtain ⟨-, ⟨hhigh, hbit⟩, hofmt, -, hsep, -, hopt, -⟩ := f.legal_iff.mp h
  obtain ⟨hifmt, hstrip⟩ := hopt.resolve_left hdec
  have hofmt := hofmt.resolve_left henc
  have hsep := (hsep.resolve_left henc).resolve_left hhex
  cases f
  simp_all [CmdFields.plain]

/-- R203: the one legal word with OP = 0. -/
theorem legal_iff_eq_zero_of_op {w : Word} (hop : (unpack w).op = 0) : (unpack w).legal = true ↔ w = 0 := by
  constructor
  · intro hlegal
    apply unpack_injective
    rw [CmdFields.eq_plain_of_legal hlegal (by simp [hop]) (by simp [hop]) (by simp [hop]), hop]
    rfl
  · rintro rfl
    rfl

end Sys2Proof

namespace Sys2Proof.Machine

/-! ### Everything but the completion fields -/

@[simp] theorem sameExceptStatus_refl (s : State) : SameExceptStatus s s := by
  simp [SameExceptStatus]

@[simp] theorem sameExceptStatus_accept (s t : State) (w : Word) :
    SameExceptStatus s (t.accept w) ↔ SameExceptStatus s t := Iff.rfl

@[simp] theorem sameExceptStatus_succeed (s t : State) (f : Fmt) (x : Bool) :
    SameExceptStatus s (t.succeed f x) ↔ SameExceptStatus s t := Iff.rfl

/-! ### A step on a write to CMD -/

section
variable {s : State} {w : Word} {rest : List Event} (hs : s.schedule = .host (.wr .word 0x00C w) :: rest)
include hs

theorem step_cmd_idle (hb : s.busy = false) : step s = .next ((s.advance rest).accept w) := by
  rw [step_wr (by decide) (by decide) hs, hostWrite_cmd (s := s.advance rest) hb]

/-- R57, R212: CMD is not among the registers that act while BUSY = 1. -/
theorem step_cmd_busy (hb : s.busy = true) : step s = .next (s.advance rest).markAccErr := by
  rw [step_wr (by decide) (by decide) hs, hostWrite_busy (s := s.advance rest) hb rfl]

end

/-- Settles O8: the state after the write is `accept`, whose pending word the engine's turn completes by its meaning
or, when it is not legal, by `raise`. -/
theorem commandIssue : Obligations.CommandIssue := by
  intro s w rest hs
  refine ⟨fun hb => ?_, step_cmd_busy hs⟩
  have hframe : SameExceptStatus (s.advance rest) ((s.advance rest).accept w) := by simp
  exact ⟨(s.advance rest).accept w, ⟨w, (s.advance rest).snapshot⟩, step_cmd_idle hs hb, rfl, rfl, rfl, rfl, rfl,
    irq_eq_false_of_done rfl, rfl, rfl, rfl, rfl, rfl, rfl, rfl, rfl, rfl, rfl, hframe,
    fun i hd => complete_pending rfl hd, fun hillegal => raised_complete_of_illegal rfl hillegal⟩

/-! ### NOP (R203) -/

theorem exec_nop (s : State) : exec .nop s = .next (s.succeed .none false) := rfl

/-- R203: with OP = 0 the decoder takes the word 0 and no other. -/
theorem exists_decode_iff_eq_zero_of_op {w : Word} (hop : (unpack w).op = 0) : (∃ i, decode w = .ok i) ↔ w = 0 := by
  constructor
  · rintro ⟨i, hd⟩
    exact (legal_iff_eq_zero_of_op hop).mp (legal_of_decodeFields hd)
  · rintro rfl
    exact ⟨.nop, rfl⟩

/-- Settles O16: NOP is `succeed` with nothing committed, and a word with OP = 0 is legal only if it is 0. -/
theorem nopOnlyCompletes : Obligations.NopOnlyCompletes := by
  refine ⟨rfl, fun s => ⟨_, exec_nop s, by simp, by simp⟩, fun w => exists_decode_iff_eq_zero_of_op,
    fun s p hp hop hne => raised_complete_of_illegal hp ?_⟩
  rw [← Bool.not_eq_true, legal_iff_eq_zero_of_op hop]
  exact hne

end Sys2Proof.Machine
end

section
/-! PROOF. The order of the error conditions (60_exceptions.md R213): a command is a chain of checks, each of which raises
or goes on, so it reports the first that fails; and R213's list, without the items that do not apply to the command, is
that chain. -/

namespace Sys2Proof.Machine

/-! ### The first error of a list -/

@[simp] theorem firstError_nil : firstError [] = .ok := rfl

@[simp] theorem firstError_cons (b : Bool) (e : ErrCode) (conds : List (Bool × ErrCode)) :
    firstError ((b, e) :: conds) = if b then e else firstError conds := by
  cases b <;> rfl

/-! ### A chain of checks -/

/-- The command ends and reports `e`, which is OK when it succeeds. -/
def Reports (r : Result) (e : ErrCode) : Prop := ∃ t, r = .next t ∧ t.err = e

theorem Reports.of_raised {r : Result} {s : State} {e : ErrCode} {f : Fmt} (h : Raised r s e f) : Reports r e := by
  obtain ⟨t, ht, ⟨-, -, -, herr, -⟩, -⟩ := h
  exact ⟨t, ht, herr⟩

/-- The end of the chain: nothing is left to fail. -/
theorem reports_succeed (s : State) (f : Fmt) (text : Bool) : Reports (.next (s.succeed f text)) (firstError []) :=
  ⟨_, rfl, rfl⟩

section
variable {s : State} {e : ErrCode} {f : Fmt} {body : Result} {conds : List (Bool × ErrCode)}
  (h : Reports body (firstError conds))
include h

theorem reports_raise_if (p : Prop) [Decidable p] :
    Reports (if p then .next (s.raise e f) else body) (firstError ((decide p, e) :: conds)) := by
  by_cases hp : p
  · simpa [hp] using Reports.of_raised (raised_raise s e f)
  · simpa [hp] using h

theorem reports_raise_unless (b : Bool) :
    Reports (if b then body else .next (s.raise e f)) (firstError ((!b, e) :: conds)) := by
  cases b with
  | true => exact h
  | false => exact Reports.of_raised (raised_raise s e f)

end

/-! ### The checks that commands share -/

/-- R23. -/
def State.keyCheck (s : State) : Bool × ErrCode := (!s.operands.keyValid, .noKey)

/-- R25. -/
def State.tableCheck (s : State) : Bool × ErrCode := (!s.operands.sValid, .noKey)

/-- R26. -/
def State.inputCheck (s : State) : Bool × ErrCode := (decide (s.cfg.bufBytes < s.inputLen), .overflow)

/-- R211, for an output of `n` bytes. -/
def State.outputCheck (s : State) (n : Nat) : Bool × ErrCode := (decide (s.cfg.bufBytes < n), .overflow)

@[simp] theorem outputCheck_zero (s : State) : s.outputCheck 0 = (false, .overflow) := by
  simp [State.outputCheck]

section
variable {s : State} {conds : List (Bool × ErrCode)}

theorem reports_requireKey {body : Result} (h : Reports body (firstError conds)) :
    Reports (requireKey s body) (firstError (s.keyCheck :: conds)) :=
  reports_raise_unless h _

theorem reports_requireTable {body : Result} (h : Reports body (firstError conds)) :
    Reports (requireTable s body) (firstError (s.tableCheck :: conds)) :=
  reports_raise_unless h _

theorem reports_checkInput {body : Result} (h : Reports body (firstError conds)) :
    Reports (checkInput s body) (firstError (s.inputCheck :: conds)) :=
  reports_raise_if h _

theorem reports_withInput {body : List Byte → Result} (h : Reports (body s.message) (firstError conds)) :
    Reports (withInput s body) (firstError (s.inputCheck :: conds)) :=
  reports_checkInput h

theorem reports_checkOutput {o : List Byte} {body : Result} (h : Reports body (firstError conds)) :
    Reports (checkOutput s o body) (firstError (s.outputCheck o.length :: conds)) :=
  reports_raise_if h _

end

/-! ### The checks of each command -/

/-- R145. -/
def State.encChecks (s : State) (f : OutFmt) : List (Bool × ErrCode) :=
  [s.keyCheck, s.inputCheck, s.outputCheck (s.encText f).length]

/-- R146; a DEC of BYTES detects no format, so it never finds RAW. -/
def State.decChecks (s : State) (auto : Bool) : List (Bool × ErrCode) :=
  [s.keyCheck, s.inputCheck, (decide ((s.decSource auto).1 = .raw), .unsupportedFormat),
    (decide ((s.decSource auto).2.length % 8 ≠ 0), .invalidLength)]

/-- R181, R183. -/
def State.encodeChecks (s : State) (f : List Byte → List Byte) : List (Bool × ErrCode) :=
  [s.inputCheck, s.outputCheck (f s.message).length]

/-- R182, R184. -/
def State.decodeChecks (s : State) (valid : List Byte → Bool) : List (Bool × ErrCode) :=
  [s.inputCheck, (!valid (strip s.message), .unsupportedFormat)]

/-- The conditions a command checks, in the order in which it does (R105, R106, R126, R127, R145, R146, R180 to R184). -/
def State.checks (s : State) : Instr → List (Bool × ErrCode)
  | .nop => []
  | .keySet => [s.inputCheck]
  | .ksched => [s.keyCheck]
  | .encb => [s.tableCheck]
  | .decb => [s.tableCheck]
  | .encHex => s.encChecks (.hex false)
  | .encHexSep => s.encChecks (.hex true)
  | .encB64 => s.encChecks .base64
  | .encRaw => s.encChecks .raw
  | .decAuto => s.decChecks true
  | .decAutoNostrip => s.decChecks true
  | .decBytes => s.decChecks false
  | .decBytesNostrip => s.decChecks false
  | .detect => [s.inputCheck]
  | .hexEnc => s.encodeChecks (hexEncode false)
  | .hexEncSep => s.encodeChecks (hexEncode true)
  | .hexDec => s.decodeChecks isHex
  | .b64Enc => s.encodeChecks b64Encode
  | .b64Dec => s.decodeChecks b64Valid

theorem reports_encMessage (s : State) (f : OutFmt) : Reports (encMessage f s) (firstError (s.encChecks f)) :=
  reports_requireKey (reports_withInput (reports_checkOutput (reports_succeed _ _ _)))

theorem reports_decCiphertext (s : State) (f : Fmt) (nostrip : Bool) (c : List Byte) :
    Reports (decCiphertext f nostrip c s) (firstError [(decide (c.length % 8 ≠ 0), .invalidLength)]) :=
  reports_raise_if (reports_succeed _ _ _) _

theorem reports_decMessage (s : State) (auto nostrip : Bool) :
    Reports (decMessage (inFmtOf auto) nostrip s) (firstError (s.decChecks auto)) := by
  refine reports_requireKey (reports_withInput ?_)
  cases auto with
  | false => exact reports_decCiphertext s .none nostrip s.message
  | true => exact reports_raise_if (reports_decCiphertext s _ nostrip _) _

theorem reports_encodeHelper (s : State) (f : List Byte → List Byte) :
    Reports (encodeHelper f s) (firstError (s.encodeChecks f)) :=
  reports_withInput (reports_checkOutput (reports_succeed _ _ _))

theorem reports_decodeHelper (s : State) (valid : List Byte → Bool) (f : List Byte → List Byte) :
    Reports (decodeHelper valid f s) (firstError (s.decodeChecks valid)) :=
  reports_withInput (reports_raise_unless (reports_succeed _ _ _) _)

/-- Every command reports the first of its checks that fails. -/
theorem exec_reports_checks (i : Instr) (s : State) : Reports (exec i s) (firstError (s.checks i)) := by
  cases i with
  | nop => exact reports_succeed _ _ _
  | keySet => exact reports_checkInput (reports_succeed _ _ _)
  | ksched => exact reports_requireKey (reports_succeed _ _ _)
  | encb => exact reports_requireTable (reports_succeed _ _ _)
  | decb => exact reports_requireTable (reports_succeed _ _ _)
  | encHex => exact reports_encMessage s (.hex false)
  | encHexSep => exact reports_encMessage s (.hex true)
  | encB64 => exact reports_encMessage s .base64
  | encRaw => exact reports_encMessage s .raw
  | decAuto => exact reports_decMessage s true false
  | decAutoNostrip => exact reports_decMessage s true true
  | decBytes => exact reports_decMessage s false false
  | decBytesNostrip => exact reports_decMessage s false true
  | detect => exact reports_checkInput (reports_succeed _ _ _)
  | hexEnc => exact reports_encodeHelper s (hexEncode false)
  | hexEncSep => exact reports_encodeHelper s (hexEncode true)
  | hexDec => exact reports_decodeHelper s isHex hexDecode
  | b64Enc => exact reports_encodeHelper s b64Encode
  | b64Dec => exact reports_decodeHelper s b64Valid b64Decode

/-! ### R213's list -/

/-- The items of R213's list one after the other, with R211's lists of the commands that each applies to. The last one
stays an `outputCheck`, so that the length in it can be rewritten for each command. -/
theorem firstError_errorConditions_eq_ite (i : Instr) (s : State) :
    firstError (s.errorConditions i) =
      if (i ∈ needsKey ∧ s.operands.keyValid = false) ∨ (i ∈ needsTable ∧ s.operands.sValid = false) then .noKey
      else if i ∈ readsInput ∧ s.cfg.bufBytes < s.inputLen then .overflow
      else if s.formatError i = true then .unsupportedFormat
      else if i ∈ decs ∧ (s.decSource (decide (i ∈ autoDecs))).2.length % 8 ≠ 0 then .invalidLength
      else firstError [s.outputCheck (s.encodedLength i)] := by
  simp [State.errorConditions, State.outputCheck]

/-- R213's list orders the checks of every command as the command does: the items that do not apply to it are false,
by the lists of R211, and what is left are its checks. -/
theorem firstError_errorConditions (i : Instr) (s : State) :
    firstError (s.errorConditions i) = firstError (s.checks i) := by
  rw [firstError_errorConditions_eq_ite]
  cases i <;>
    simp [State.checks, State.encChecks, State.decChecks, State.encodeChecks, State.decodeChecks, State.keyCheck,
      State.tableCheck, State.inputCheck, State.formatError, State.encodedLength, State.decSource, needsKey,
      needsTable, readsInput, autoDecs, decs]

/-- Settles O12: a command reports the first of its checks that fails, which R213's list orders as the command does;
an illegal word is no command and has no checks. -/
theorem firstErrorIsReported : Obligations.FirstErrorIsReported := by
  refine ⟨fun i s => ?_, fun s p hp hillegal => Reports.of_raised (raised_complete_of_illegal hp hillegal)⟩
  rw [firstError_errorConditions]
  exact exec_reports_checks i s

end Sys2Proof.Machine
end

section
/-! PROOF. Soft reset (70_reset_and_hazards.md R241): what the host reads of the reset state, what stays in the buffers,
and the step that resets, at any BUSY. -/

namespace Sys2Proof.Machine.State

/-! ### The state after a soft reset -/

@[simp] theorem softReset_busy (s : State) : s.softReset.busy = false := rfl

/-- R31: every field of STATUS is 0. -/
@[simp] theorem softReset_statusWord (s : State) : s.softReset.statusWord = 0 := by
  simp [statusWord, Fmt.code, ErrCode.code]

/-- R30: IE is 0. -/
@[simp] theorem softReset_ctrlWord (s : State) : s.softReset.ctrlWord = 0 := by
  simp [ctrlWord]

@[simp] theorem softReset_irq (s : State) : s.softReset.irq = false := irq_eq_false_of_done rfl

@[simp] theorem softReset_inByte (s : State) (a : Nat) : s.softReset.inByte a = s.inByte a := rfl

@[simp] theorem softReset_outByte (s : State) (a : Nat) : s.softReset.outByte a = s.outByte a := rfl

/-- R22: every byte of K is 0. -/
theorem softReset_key_getElem (s : State) (i : Fin 16) : s.softReset.key[i] = 0 := by
  rw [softReset_key]
  exact Vector.getElem_replicate i.isLt

end Sys2Proof.Machine.State

namespace Sys2Proof.Machine

/-! ### The write that resets -/

/-- R30: SRST = 1 resets, whatever IE the word carries. -/
theorem writeCtrl_softReset (s : State) {v : Word} (h : v.getLsbD 1 = true) : s.writeCtrl v = s.softReset := by
  simp [State.writeCtrl, h]

/-- R57: CTRL acts while BUSY = 1, so BUSY does not matter. -/
theorem step_softReset {s : State} {v : Word} {rest : List Event}
    (hs : s.schedule = .host (.wr .word 0x004 v) :: rest) (h : v.getLsbD 1 = true) :
    step s = .next (s.advance rest).softReset := by
  rw [step_wr (by decide) (by decide) hs, hostWrite_ctrl, writeCtrl_softReset _ h]

/-- Settles O53: the step answers `softReset` with the schedule advanced, at any BUSY, and that state has the values of
R241. -/
theorem softReset : Obligations.SoftReset := by
  intro s v rest hs hv
  exact ⟨(s.advance rest).softReset, step_softReset hs hv, rfl, State.softReset_statusWord _,
    State.softReset_ctrlWord _, State.softReset_irq _, rfl, rfl, State.softReset_key_getElem _, rfl, rfl, rfl, rfl, rfl,
    State.softReset_inByte _, State.softReset_outByte _, rfl, rfl, rfl, rfl⟩

end Sys2Proof.Machine
end

section
/-! PROOF. The encoding (30_encoding.md R70 to R74): the fields of every command are the legal fields, the decoder
reads a command from its fields and from no others, and R73's match-and-mask table accepts the words with these
fields. -/

namespace Sys2Proof

open Machine (le32_bytesLe)

/-! ### Every command -/

/-- What the model's laws say of each command, as one statement about all of them. -/
theorem fieldsLegal (i : Instr) : Laws.FieldsLegal.Statement i := by
  cases i with
  | nop => exact Laws.FieldsLegal.nop
  | keySet => exact Laws.FieldsLegal.keySet
  | ksched => exact Laws.FieldsLegal.ksched
  | encb => exact Laws.FieldsLegal.encb
  | decb => exact Laws.FieldsLegal.decb
  | encHex => exact Laws.FieldsLegal.encHex
  | encHexSep => exact Laws.FieldsLegal.encHexSep
  | encB64 => exact Laws.FieldsLegal.encB64
  | encRaw => exact Laws.FieldsLegal.encRaw
  | decAuto => exact Laws.FieldsLegal.decAuto
  | decAutoNostrip => exact Laws.FieldsLegal.decAutoNostrip
  | decBytes => exact Laws.FieldsLegal.decBytes
  | decBytesNostrip => exact Laws.FieldsLegal.decBytesNostrip
  | detect => exact Laws.FieldsLegal.detect
  | hexEnc => exact Laws.FieldsLegal.hexEnc
  | hexEncSep => exact Laws.FieldsLegal.hexEncSep
  | hexDec => exact Laws.FieldsLegal.hexDec
  | b64Enc => exact Laws.FieldsLegal.b64Enc
  | b64Dec => exact Laws.FieldsLegal.b64Dec

theorem Instr.wf_eq_true (i : Instr) : i.wf = true := (fieldsLegal i).1

theorem unpack_encode (i : Instr) : unpack (encode i) = i.fields := (fieldsLegal i).2.1

theorem pack_fields (i : Instr) : pack i.fields = encode i := (fieldsLegal i).2.2

/-! ### Decoding what was encoded (R70, R74) -/

theorem decode_encode (i : Instr) : decode (encode i) = .ok i := by
  cases i <;> rfl

/-- R53: the window holds a word as its four bytes. -/
theorem decodeBytes_bytesLe (w : Word) : decodeBytes (Machine.bytesLe w) = decode w :=
  congrArg decode (le32_bytesLe w)

theorem tableWord_toNat (w : Word) : tableWord 32 w.toNat = w := by
  rw [tableWord, Nat.mod_eq_of_lt w.isLt, BitVec.ofNat_toNat, BitVec.setWidth_eq]

theorem decodeTableWord_encode (i : Instr) : decodeTableWord 32 (encode i).toNat = some i := by
  rw [decodeTableWord, tableWord_toNat, decodeBytes_bytesLe, decode_encode]
  rfl

/-! ### Legal fields are the fields of a command (R73, R74) -/

/-- The commands in the order of R74's list. -/
def allCommands : List Instr :=
  [.nop, .keySet, .ksched, .encb, .decb, .encHex, .encHexSep, .encB64, .encRaw, .decAuto, .decAutoNostrip, .decBytes,
    .decBytesNostrip, .detect, .hexEnc, .hexEncSep, .hexDec, .b64Enc, .b64Dec]

theorem mem_allCommands (i : Instr) : i ∈ allCommands := by
  cases i <;> decide

section
variable {f : CmdFields} (h : f.legal = true)
include h

/-- Only ENC takes OFMT, and only it and HEX_ENC take HEXSEP. -/
theorem CmdFields.eq_enc_of_legal (hop : f.op = 0x5) :
    f = { CmdFields.plain 0x5 with ofmt := f.ofmt, hexsep := f.hexsep } := by
  obtain ⟨-, ⟨hhigh, hbit⟩, -, -, -, -, hopt, -⟩ := f.legal_iff.mp h
  cases f
  simp_all [CmdFields.plain]

/-- Only DEC takes IFMT and NOSTRIP. -/
theorem CmdFields.eq_dec_of_legal (hop : f.op = 0x6) :
    f = { CmdFields.plain 0x6 with ifmt := f.ifmt, nostrip := f.nostrip } := by
  obtain ⟨-, ⟨hhigh, hbit⟩, hofmt, -, hsep, -, -, -⟩ := f.legal_iff.mp h
  cases f
  simp_all [CmdFields.plain]

theorem CmdFields.eq_hexEnc_of_legal (hop : f.op = 0x8) : f = { CmdFields.plain 0x8 with hexsep := f.hexsep } := by
  obtain ⟨-, ⟨hhigh, hbit⟩, hofmt, -, -, -, hopt, -⟩ := f.legal_iff.mp h
  cases f
  simp_all [CmdFields.plain]

/-- By the opcodes that take options and the others; what is left of the fields are few values. -/
theorem CmdFields.exists_command_of_legal : ∃ i ∈ allCommands, f = i.fields := by
  obtain ⟨hle, -, -, hofmt, -, hsep, -, hifmt⟩ := f.legal_iff.mp h
  by_cases henc : f.op = 0x5
  · have hall : ∀ (ofmt : BitVec 2) (sep : Bool), ofmt ≠ 3 → (sep = true → ofmt = 0) →
        ∃ i ∈ allCommands, { CmdFields.plain 0x5 with ofmt := ofmt, hexsep := sep } = i.fields := by
      decide
    rw [f.eq_enc_of_legal h henc]
    exact hall _ _ (hofmt henc) (hsep henc)
  by_cases hdec : f.op = 0x6
  · have hall : ∀ (ifmt : BitVec 2) (nostrip : Bool), ifmt.toNat ≤ 1 →
        ∃ i ∈ allCommands, { CmdFields.plain 0x6 with ifmt := ifmt, nostrip := nostrip } = i.fields := by
      decide
    rw [f.eq_dec_of_legal h hdec]
    exact hall _ _ (hifmt hdec)
  by_cases hhex : f.op = 0x8
  · have hall : ∀ sep : Bool, ∃ i ∈ allCommands, { CmdFields.plain 0x8 with hexsep := sep } = i.fields := by
      decide
    rw [f.eq_hexEnc_of_legal h hhex]
    exact hall _
  · have hall : ∀ op : BitVec 4, op.toNat ≤ 0xB → op ≠ 0x5 → op ≠ 0x6 → op ≠ 0x8 →
        ∃ i ∈ allCommands, CmdFields.plain op = i.fields := by
      decide
    rw [CmdFields.eq_plain_of_legal h henc hdec hhex]
    exact hall _ hle henc hdec hhex

end

/-- A word with the fields of a command is its word. -/
theorem encode_eq_of_unpack_eq {w : Word} {i : Instr} (h : unpack w = i.fields) : encode i = w := by
  rw [← pack_fields, ← h, pack_unpack]

theorem legal_iff_exists_encode (w : Word) : (unpack w).legal = true ↔ ∃ i, encode i = w := by
  constructor
  · intro h
    obtain ⟨i, -, hi⟩ := (unpack w).exists_command_of_legal h
    exact ⟨i, encode_eq_of_unpack_eq hi⟩
  · rintro ⟨i, rfl⟩
    rw [unpack_encode]
    exact i.wf_eq_true

/-- A word that the decoder takes is legal, so it is the word of some command, which is the one decoded. -/
theorem encode_eq_of_decode {w : Word} {i : Instr} (h : decode w = .ok i) : encode i = w := by
  obtain ⟨j, rfl⟩ := (legal_iff_exists_encode w).mp (legal_of_decodeFields h)
  rw [decode_encode] at h
  rw [Except.ok.inj h]

theorem exists_decode_iff_exists_encode (w : Word) : (∃ i, decode w = .ok i) ↔ ∃ i, encode i = w := by
  constructor
  · rintro ⟨i, h⟩
    exact ⟨i, encode_eq_of_decode h⟩
  · rintro ⟨i, rfl⟩
    exact ⟨i, decode_encode i⟩

/-- Settles O2: each way of writing a command's word decodes to it, and the one word that decodes to it is its own. -/
theorem encodeAndDecodeAgree : Obligations.EncodeAndDecodeAgree := by
  refine ⟨fun i _ => ⟨decode_encode i, ?_, decodeTableWord_encode i⟩, fun w i h => ?_⟩
  · rw [encodeBytes, decodeBytes_bytesLe, decode_encode]
  · exact ⟨i.wf_eq_true, encode_eq_of_decode h⟩

/-- Settles O1: each word written out is the numeral that `decode` evaluates. -/
theorem specWordsDecode : Obligations.SpecWordsDecode :=
  ⟨rfl, rfl, rfl, rfl, rfl, rfl, rfl⟩

/-! ### R74's list -/

theorem exists_encode_iff_mem (w : Word) : (∃ i, encode i = w) ↔ w ∈ allCommands.map encode := by
  simp [mem_allCommands]

/-- Settles O3: R74's list is `allCommands` under their mnemonics, and a legal word is the word of a command. -/
theorem legalWordsAreTheNineteen : Obligations.LegalWordsAreTheNineteen := by
  refine ⟨rfl, by decide, fun i => ?_, fun w => ?_, fun w => ?_⟩
  · cases i <;> decide
  · exact (legal_iff_exists_encode w).trans (exists_encode_iff_mem w)
  · exact (exists_decode_iff_exists_encode w).trans (exists_encode_iff_mem w)

/-! ### R73's table -/

theorem unpack_and (v w : Word) :
    unpack (v &&& w) =
      { op := (unpack v).op &&& (unpack w).op
        ofmt := (unpack v).ofmt &&& (unpack w).ofmt
        hexsep := (unpack v).hexsep && (unpack w).hexsep
        bit7 := (unpack v).bit7 && (unpack w).bit7
        ifmt := (unpack v).ifmt &&& (unpack w).ifmt
        nostrip := (unpack v).nostrip && (unpack w).nostrip
        high := (unpack v).high &&& (unpack w).high } := by
  simp [unpack, BitVec.extractLsb'_and]

theorem unpack_pack (f : CmdFields) : unpack (pack f) = f := by
  obtain ⟨op, ofmt, hexsep, bit7, ifmt, nostrip, high⟩ := f
  simp only [unpack, pack, CmdFields.mk.injEq]
  simp (disch := decide) only [BitVec.extractLsb'_append_eq_of_le, BitVec.extractLsb'_append_eq_of_add_le,
    Nat.reduceSub, BitVec.extractLsb'_eq_self, BitVec.getLsbD_append, BitVec.getLsbD_ofBool]
  simp

/-- R73's "match and mask" field by field, the mask given by its fields. -/
theorem fields_of_mask {w p : Word} (m : CmdFields) (h : w &&& pack m = p) :
    (unpack w).op &&& m.op = (unpack p).op ∧ (unpack w).ofmt &&& m.ofmt = (unpack p).ofmt
      ∧ ((unpack w).hexsep && m.hexsep) = (unpack p).hexsep ∧ ((unpack w).bit7 && m.bit7) = (unpack p).bit7
      ∧ (unpack w).ifmt &&& m.ifmt = (unpack p).ifmt ∧ ((unpack w).nostrip && m.nostrip) = (unpack p).nostrip
      ∧ (unpack w).high &&& m.high = (unpack p).high := by
  rw [← h, unpack_and, unpack_pack]
  exact ⟨rfl, rfl, rfl, rfl, rfl, rfl, rfl⟩

/-- The fields that R73's mask of ENC fixes: all but OFMT and HEXSEP. -/
theorem fixed_of_encMask {w : Word} (h : w &&& 0xFFFFFF8F = 0x5) :
    (unpack w).op = 0x5 ∧ (unpack w).bit7 = false ∧ (unpack w).ifmt = 0 ∧ (unpack w).nostrip = false
      ∧ (unpack w).high = 0 := by
  have hfields := fields_of_mask ⟨.allOnes 4, 0, false, true, .allOnes 2, true, .allOnes 21⟩ h
  simp only [BitVec.and_allOnes, Bool.and_true] at hfields
  obtain ⟨hop, -, -, hbit, hifmt, hstrip, hhigh⟩ := hfields
  exact ⟨hop, hbit, hifmt, hstrip, hhigh⟩

/-- The fields that R73's mask of DEC fixes: all but IFMT and NOSTRIP. -/
theorem fixed_of_decMask {w : Word} (h : w &&& 0xFFFFF8FF = 0x6) :
    (unpack w).op = 0x6 ∧ (unpack w).ofmt = 0 ∧ (unpack w).hexsep = false ∧ (unpack w).bit7 = false
      ∧ (unpack w).high = 0 := by
  have hfields := fields_of_mask ⟨.allOnes 4, .allOnes 2, true, true, 0, false, .allOnes 21⟩ h
  simp only [BitVec.and_allOnes, Bool.and_true] at hfields
  obtain ⟨hop, hofmt, hsep, hbit, -, -, hhigh⟩ := hfields
  exact ⟨hop, hofmt, hsep, hbit, hhigh⟩

/-- The fields that R73's mask of HEX_ENC fixes: all but HEXSEP. -/
theorem fixed_of_hexEncMask {w : Word} (h : w &&& 0xFFFFFFBF = 0x8) :
    (unpack w).op = 0x8 ∧ (unpack w).ofmt = 0 ∧ (unpack w).bit7 = false ∧ (unpack w).ifmt = 0
      ∧ (unpack w).nostrip = false ∧ (unpack w).high = 0 := by
  have hfields := fields_of_mask ⟨.allOnes 4, .allOnes 2, false, true, .allOnes 2, true, .allOnes 21⟩ h
  simp only [BitVec.and_allOnes, Bool.and_true] at hfields
  obtain ⟨hop, hofmt, -, hbit, hifmt, hstrip, hhigh⟩ := hfields
  exact ⟨hop, hofmt, hbit, hifmt, hstrip, hhigh⟩

section
variable {w : Word}

theorem legal_of_encRow (h : w &&& 0xFFFFFF8F = 0x5)
    (hx : (w.extractLsb' 4 2 != 3 && (!w.getLsbD 6 || w.extractLsb' 4 2 == 0)) = true) :
    (unpack w).legal = true := by
  obtain ⟨hop, hbit, hifmt, hstrip, hhigh⟩ := fixed_of_encMask h
  have hofmt : (unpack w).ofmt ≠ 3 ∧ ((unpack w).hexsep = true → (unpack w).ofmt = 0) := by
    simpa [unpack, imp_iff_not_or] using hx
  simpa [CmdFields.legal_iff, hop, hbit, hifmt, hstrip, hhigh] using hofmt

theorem legal_of_decRow (h : w &&& 0xFFFFF8FF = 0x6) (hx : (w.extractLsb' 8 2).toNat ≤ 1) :
    (unpack w).legal = true := by
  obtain ⟨hop, hofmt, hsep, hbit, hhigh⟩ := fixed_of_decMask h
  have hifmt : (unpack w).ifmt.toNat ≤ 1 := hx
  simp [CmdFields.legal_iff, hop, hofmt, hsep, hbit, hhigh, hifmt]

theorem legal_of_hexEncRow (h : w &&& 0xFFFFFFBF = 0x8) : (unpack w).legal = true := by
  obtain ⟨hop, hofmt, hbit, hifmt, hstrip, hhigh⟩ := fixed_of_hexEncMask h
  simp [CmdFields.legal_iff, hop, hofmt, hbit, hifmt, hstrip, hhigh]

/-- A row with the full mask takes its pattern only. -/
theorem legal_of_exactRow {v : Word} {name : String} (hv : (unpack v).legal = true)
    (h : w &&& (MaskRow.exact name v).mask = v) : (unpack w).legal = true := by
  have hmask : (MaskRow.exact name v).mask = BitVec.allOnes 32 := rfl
  rw [hmask, BitVec.and_allOnes] at h
  rwa [h]

end

/-- Row by row of R73's table. -/
theorem legal_of_maskRow (w : Word) :
    ∀ r ∈ maskTable, w &&& r.mask = r.pattern → r.extra w = true → (unpack w).legal = true := by
  simp only [maskTable, List.forall_mem_cons]
  exact ⟨fun h _ => legal_of_exactRow (by decide) h, fun h _ => legal_of_exactRow (by decide) h,
    fun h _ => legal_of_exactRow (by decide) h, fun h _ => legal_of_exactRow (by decide) h,
    fun h _ => legal_of_exactRow (by decide) h, legal_of_encRow, fun h hx => legal_of_decRow h (of_decide_eq_true hx),
    fun h _ => legal_of_exactRow (by decide) h, fun h _ => legal_of_hexEncRow h,
    fun h _ => legal_of_exactRow (by decide) h, fun h _ => legal_of_exactRow (by decide) h,
    fun h _ => legal_of_exactRow (by decide) h, by simp⟩

theorem legal_of_maskLegal {w : Word} (h : maskLegal w = true) : (unpack w).legal = true := by
  simp only [maskLegal, List.any_eq_true, Bool.and_eq_true, beq_iff_eq] at h
  obtain ⟨r, hr, hm, hx⟩ := h
  exact legal_of_maskRow w r hr hm hx

theorem maskLegal_encode (i : Instr) : maskLegal (encode i) = true := by
  cases i <;> decide

theorem maskLegal_iff_legal (w : Word) : maskLegal w = true ↔ (unpack w).legal = true := by
  refine ⟨legal_of_maskLegal, fun h => ?_⟩
  obtain ⟨i, rfl⟩ := (legal_iff_exists_encode w).mp h
  exact maskLegal_encode i

/-- Settles O4: all three accept the words of the commands. -/
theorem legalityByFieldsMasksAndDecoder : Obligations.LegalityByFieldsMasksAndDecoder := by
  refine fun w => ⟨Bool.eq_iff_iff.mpr (maskLegal_iff_legal w), ?_⟩
  rw [maskLegal_iff_legal, legal_iff_exists_encode, exists_decode_iff_exists_encode]

/-- Settles O5: packing and unpacking are inverse. -/
theorem fieldsTileTheWord : Obligations.FieldsTileTheWord :=
  ⟨pack_unpack, unpack_pack⟩

end Sys2Proof
end

section
/-! PROOF. The invariant of the block (10_state.md R25, R31, R38): power-on reset has it, and each of the operations
of which a step is one keeps it. -/

namespace Sys2Proof.Machine

/-! ### What the invariant says of an idle and of a busy block -/

theorem pendingCurrent_of_idle {s : State} (h : s.pending = none) : s.PendingCurrent := by
  simp [State.PendingCurrent, h]

theorem State.Inv.operands_eq_snapshot {s : State} (h : s.Inv) : s.operands = s.snapshot := by
  obtain ⟨-, -, -, -, hpending⟩ := h
  cases hp : s.pending with
  | none => exact s.operands_of_idle hp
  | some p =>
    rw [s.operands_of_pending p hp]
    exact (hpending p hp).1

/-- Settles O59: the captured values are the current ones, field by field. -/
theorem commandsWorkOnTheCurrentValues : Obligations.CommandsWorkOnTheCurrentValues := by
  intro s h
  have hops := h.operands_eq_snapshot
  refine ⟨hops, ?_, fun a => ?_⟩
  · rw [State.inputLen, hops, State.snapshot_inlen]
  · rw [State.operandByte, hops, State.snapshot_inBuf, State.inByte]

/-! ### Resets -/

theorem buffersWf_softReset {s : State} (h : s.BuffersWf) : s.softReset.BuffersWf := by
  obtain ⟨hin, hout, hinBelow, houtBelow, -⟩ := h
  exact ⟨hin, hout, hinBelow, houtBelow, Nat.zero_le _⟩

/-- A block with SVALID, TEXT_OK and BUSY 0 needs good parameters and buffers only. -/
theorem inv_of_clear {s : State} (hcfg : s.cfg.wf = true) (hbuf : s.BuffersWf) (hvalid : s.sValid = false)
    (htext : s.textOk = false) (hpending : s.pending = none) : s.Inv :=
  ⟨hcfg, hbuf, by simp [State.TableValid, hvalid], by simp [State.TextOkValid, htext],
    pendingCurrent_of_idle hpending⟩

theorem inv_softReset {s : State} (h : s.Inv) : s.softReset.Inv := by
  obtain ⟨hcfg, hbuf, -⟩ := h
  exact inv_of_clear hcfg (buffersWf_softReset hbuf) rfl rfl rfl

theorem inv_powerOnReset {s : State} (h : s.Inv) : s.powerOnReset.Inv :=
  inv_of_clear h.1 ⟨rfl, rfl, rfl, rfl, Nat.zero_le _⟩ rfl rfl rfl

/-- Settles O57. -/
theorem resetMeetsTheInvariant : Obligations.ResetMeetsTheInvariant :=
  inv_of_clear (by decide) ⟨rfl, rfl, rfl, rfl, Nat.zero_le _⟩ rfl rfl rfl

/-! ### The host's accesses -/

theorem inv_advance {s : State} (h : s.Inv) (rest : List Event) : (s.advance rest).Inv := h

theorem inv_hostRead {s : State} (h : s.Inv) (off : Nat) : (hostRead s off).Inv := h

theorem inv_markAccErr {s : State} (h : s.Inv) : s.markAccErr.Inv := h

/-- DONE is already 0 while BUSY = 1. -/
theorem inv_writeStatus {s : State} (h : s.Inv) (v : Word) : (s.writeStatus v).Inv := by
  obtain ⟨hcfg, hbuf, htable, htext, hpending⟩ := h
  refine ⟨hcfg, hbuf, htable, htext, fun p hp => ?_⟩
  obtain ⟨hinputs, hdone, hfields⟩ := hpending p hp
  exact ⟨hinputs, by simp [hdone], hfields⟩

theorem inv_writeCtrl {s : State} (h : s.Inv) (v : Word) : (s.writeCtrl v).Inv := by
  unfold State.writeCtrl
  split
  · exact inv_softReset h
  · exact h

/-- R201: acceptance captures the current values and clears the completion fields. -/
theorem inv_accept {s : State} (h : s.Inv) (w : Word) : (s.accept w).Inv := by
  obtain ⟨hcfg, hbuf, htable, -⟩ := h
  refine ⟨hcfg, hbuf, htable, by simp [State.TextOkValid], fun p hp => ?_⟩
  obtain rfl : _ = p := Option.some.inj hp
  exact ⟨rfl, rfl, rfl, rfl, rfl⟩

/-- An aligned index below BUF_BYTES, a multiple of 8, leaves room for the whole word. -/
theorem buffersWf_writeWord {s : State} (hcfg : s.cfg.wf = true) (h : s.BuffersWf) {i : Nat} (ha : i % 4 = 0)
    (hi : i < s.cfg.bufBytes) (v : Word) :
    ({ s with inBuf := s.inBuf.putBytes i (bytesLe v) } : State).BuffersWf := by
  obtain ⟨hin, hout, hinBelow, houtBelow, hlen⟩ := h
  simp only [Config.wf, Bool.and_eq_true, decide_eq_true_eq] at hcfg
  obtain ⟨-, hsize, -⟩ := hcfg
  refine ⟨Memory.putBytes_wf _ _ _ hin, hout, Memory.putBytes_below _ _ _ _ hinBelow ?_, houtBelow, hlen⟩
  rw [bytesLe_length]
  change i + 4 ≤ s.cfg.bufBytes
  omega

/-- R56, with BUSY = 0 where the register is not CTRL or STATUS: there is no captured value that could go stale. -/
theorem inv_writeReg {s : State} (h : s.Inv) {r : Reg} (hr : s.busy = false ∨ r.writableWhileBusy = true)
    (ha : ∀ i, r = .inWindow i → i % 4 = 0) (v : Word) : (s.writeReg r v).Inv := by
  have hidle (hw : r.writableWhileBusy = false) : s.pending = none := by
    simpa [hw, State.busy_false_iff] using hr
  have ⟨hcfg, hbuf, htable, htext, _⟩ := h
  cases r with
  | ctrl => exact inv_writeCtrl h v
  | status => exact inv_writeStatus h v
  | cmd => exact inv_accept h v
  | inlen | dataA | dataB => exact ⟨hcfg, hbuf, htable, htext, pendingCurrent_of_idle (hidle rfl)⟩
  | inWindow i =>
    unfold State.writeReg
    dsimp only
    split
    next hi =>
      exact ⟨hcfg, buffersWf_writeWord hcfg hbuf (ha i rfl) hi v, htable, htext,
        pendingCurrent_of_idle (hidle rfl)⟩
    next => exact h
  | id | outlen | key | bufsize | sWord | outWindow | reserved => exact h

theorem inv_hostWrite {s : State} (h : s.Inv) {off : Nat} (ha : off % 4 = 0) (v : Word) :
    (hostWrite s off v).Inv := by
  rcases hostWrite_cases s off v with ⟨-, -, hw⟩ | ⟨hr, hw⟩
  · rw [hw]
    exact inv_markAccErr h
  · rw [hw]
    refine inv_writeReg h hr (fun i hi => ?_) v
    obtain ⟨hoff, hi⟩ := regOf_inWindow hi
    omega

/-! ### The engine -/

/-- R29, R211: an output within BUF_BYTES stays inside OUT_BUF, and so does its length. -/
theorem buffersWf_commitOut {s : State} (h : s.BuffersWf) {o : List Byte} (ho : o.length ≤ s.cfg.bufBytes) :
    (s.commitOut o).BuffersWf := by
  obtain ⟨hin, hout, hinBelow, houtBelow, -⟩ := h
  refine ⟨hin, Memory.putBytes_wf _ _ _ hout, hinBelow, Memory.putBytes_below _ _ _ _ houtBelow (by simpa using ho), ?_⟩
  exact (Nat.mod_le _ _).trans ho

theorem tableValid_commitOut (s : State) (o : List Byte) : (s.commitOut o).TableValid ↔ s.TableValid := Iff.rfl

/-- A table made from the captured key is the table of the current key. -/
theorem tableValid_commitTable {s : State} (h : s.Inv) (hk : s.operands.keyValid = true) :
    (s.commitTable s.freshTable).TableValid := by
  rw [h.operands_eq_snapshot] at hk
  refine fun _ => ⟨hk, ?_⟩
  rw [State.commitTable_sTable, State.freshTable, h.operands_eq_snapshot]
  rfl

/-- Completion: nothing is pending, and what is left of the invariant speaks of what was committed before. -/
theorem inv_finish {s : State} {e : ErrCode} {f : Fmt} {x : Bool} (hcfg : s.cfg.wf = true) (hbuf : s.BuffersWf)
    (htable : s.TableValid) (htext : x = true → e = .ok ∧ s.sValid = true) : (s.finish e f x).Inv :=
  ⟨hcfg, hbuf, htable, htext, pendingCurrent_of_idle rfl⟩

/-- Each shape of a command's end: an error commits nothing, KEY_SET clears SVALID, and the new tables are fresh. -/
theorem ExecShape.inv {i : Instr} {s t : State} (h : ExecShape i s t) (hs : s.Inv) : t.Inv := by
  have ⟨hcfg, hbuf, htable, _, _⟩ := hs
  cases h with
  | raised e f => exact inv_finish hcfg hbuf htable (by simp)
  | plain f => exact inv_finish hcfg hbuf htable (by simp)
  | key k => exact inv_of_clear hcfg hbuf rfl rfl rfl
  | table _ hk => exact inv_finish hcfg hbuf (tableValid_commitTable hs hk) (by simp)
  | data ab => exact inv_finish (s := s.commitData ab) hcfg hbuf htable (by simp)
  | message o f x _ hk ho =>
    exact inv_finish hcfg (buffersWf_commitOut (s := s.commitTable s.freshTable) hbuf ho)
      ((tableValid_commitOut _ o).mpr (tableValid_commitTable hs hk)) (by simp)
  | helper o _ ho =>
    exact inv_finish hcfg (buffersWf_commitOut hbuf ho) ((tableValid_commitOut s o).mpr htable) (by simp)

theorem inv_complete {s t : State} (hs : s.Inv) (h : complete s = .next t) : t.Inv := by
  obtain ⟨u, hu, hcase⟩ := complete_next s
  obtain rfl : u = t := by simpa [hu] using h
  rcases hcase with ⟨-, rfl⟩ | ⟨-, rfl⟩ | ⟨p, i, -, -, hshape⟩
  · exact hs
  · exact (ExecShape.raised (i := .nop) .illegalCmd .none (by decide)).inv hs
  · exact hshape.inv hs

/-- Settles O58, by the kinds of step: the engine's turn, a reset, an access, or a change of the schedule alone. -/
theorem stepKeepsTheInvariant : Obligations.StepKeepsTheInvariant := by
  intro s t hs h
  rcases step_cases h with h | ⟨rest, -, h⟩ | ⟨rest, -, rfl⟩ | ⟨rest, off, v, -, ha, -, rfl⟩ | ⟨rest, off, -, -, -, rfl⟩
    | ⟨rest, -, -, rfl⟩ | ⟨rest, -, -, rfl⟩ | ⟨rest, sched, -, rfl⟩
  · exact inv_complete hs h
  · exact inv_complete (inv_advance hs rest) h
  · exact inv_powerOnReset (inv_advance hs rest)
  · exact inv_hostWrite (inv_advance hs rest) ha v
  · exact inv_hostRead (inv_advance hs rest) off
  · exact inv_hostRead (inv_advance hs rest) 0x008
  · exact inv_advance hs rest
  · exact inv_advance (inv_hostRead (inv_advance hs rest) 0x014) sched

end Sys2Proof.Machine
end

section
/-! PROOF. What commands and steps write (10_state.md R21 to R29, 44_control.md R202, R204): each clause is read off
the shapes of a command's end, and the changes of KEY and S off the kinds of step. -/

namespace Sys2Proof.Machine

/-! ### Completion (R202) -/

theorem step_of_schedule_nil {s : State} (h : s.schedule = []) : step s = complete s := by
  simp [step, nextEvent, h]

theorem step_engine {s : State} {rest : List Event} (h : s.schedule = .engine :: rest) :
    step s = complete (s.advance rest) := by
  simp [step, nextEvent, h]

theorem step_powerOn {s : State} {rest : List Event} (h : s.schedule = .powerOn :: rest) :
    step s = .next (s.advance rest).powerOnReset := by
  simp [step, nextEvent, h]

/-- The engine's turn leaves the block idle. -/
theorem complete_idle {s t : State} (h : complete s = .next t) : t.pending = none := by
  obtain ⟨u, hu, hcase⟩ := complete_next s
  obtain rfl : u = t := by simpa [hu] using h
  rcases hcase with ⟨hidle, rfl⟩ | ⟨-, rfl⟩ | ⟨p, i, -, -, hshape⟩
  · exact hidle
  · rfl
  · exact hshape.pending_none

/-- Settles O10: every shape of a command's end is a completion, and so is the end of an illegal word. -/
theorem everyPendingCommandCompletes : Obligations.EveryPendingCommandCompletes := by
  refine ⟨fun i s => ?_, fun s hb hs => ?_⟩
  · obtain ⟨t, ht, hshape⟩ := exec_shape i s
    have hidle := hshape.pending_none
    exact ⟨t, ht, hidle, t.busy_false_iff.mpr hidle, hshape.done_eq_true⟩
  · obtain ⟨t, ht⟩ := exists_complete_next s
    obtain ⟨hdone, -⟩ := complete_done_and_ie hb ht
    exact ⟨t, (step_of_schedule_nil hs).trans ht, t.busy_false_iff.mpr (complete_idle ht), hdone⟩

/-! ### Steps that run the pending command -/

/-- Settles O6: in each of the four schedules the step is the engine's turn, on the state with or without the event. -/
theorem stepRunsThePendingCommand : Obligations.StepRunsThePendingCommand := by
  intro s p i rest hp hd
  have hrun : complete s = exec i s := complete_pending hp hd
  have hbusy : s.busy = true := by simp [State.busy, hp]
  refine ⟨fun hs => ?_, fun hs => ?_, fun hs => ?_, fun hs hirq => ?_⟩
  · rw [step_of_schedule_nil hs, hrun]
  · rw [step_engine hs]
    exact complete_pending (s := s.advance rest) hp hd
  · rw [step_host hs, hostStep, if_pos hbusy, hrun]
  · rw [step_host hs, hostStep, if_neg (by simp [hirq]), hrun]

/-- Settles O7: the placed word is accepted and the engine's turn is next. -/
theorem fetchedWordRunsAtOnce : Obligations.FetchedWordRunsAtOnce := by
  refine fun s i => ⟨?_, s.accept_operands _⟩
  rw [State.withFetchWord, tableWord_toNat, step_engine (rest := s.schedule) rfl]
  exact complete_pending (s := s.accept (encode i)) rfl (decode_encode i)

/-! ### A command that fails (R204) -/

theorem ExecShape.sameExceptStatus {i : Instr} {s t : State} (h : ExecShape i s t) (herr : t.err ≠ .ok) :
    SameExceptStatus s t := by
  cases h with
  | raised e f =>
    obtain ⟨u, hu, -, hsame⟩ := raised_raise s e f
    rwa [Host.Outcome.next.inj hu]
  | plain | key | table | data | message | helper => exact absurd rfl herr

theorem complete_sameExceptStatus {s t : State} (h : complete s = .next t) (herr : t.err ≠ .ok) :
    SameExceptStatus s t := by
  obtain ⟨u, hu, hcase⟩ := complete_next s
  obtain rfl : u = t := by simpa [hu] using h
  rcases hcase with ⟨-, rfl⟩ | ⟨-, rfl⟩ | ⟨p, i, -, -, hshape⟩
  · exact sameExceptStatus_refl _
  · exact (ExecShape.raised (i := .nop) .illegalCmd .none (by decide)).sameExceptStatus herr
  · exact hshape.sameExceptStatus herr

/-- Settles O11: the only shape with an error commits nothing. -/
theorem failingCommandChangesOnlyStatus : Obligations.FailingCommandChangesOnlyStatus :=
  ⟨fun _ _ _ h herr => (exec_next_shape h).sameExceptStatus herr,
    fun _ _ _ h herr => complete_sameExceptStatus h herr⟩

/-! ### What each shape writes -/

theorem messageCommand_lists {i : Instr}
    (hi : i ∈ [Instr.encHex, .encHexSep, .encB64, .encRaw, .decAuto, .decAutoNostrip, .decBytes, .decBytesNostrip]) :
    i ∈ writesTable ∧ i ∈ producesOutput := by
  have h : ∀ j ∈ [Instr.encHex, .encHexSep, .encB64, .encRaw, .decAuto, .decAutoNostrip, .decBytes, .decBytesNostrip],
      j ∈ writesTable ∧ j ∈ producesOutput := by
    decide
  exact h i hi

theorem helperCommand_lists {i : Instr} (hi : i ∈ [Instr.hexEnc, .hexEncSep, .hexDec, .b64Enc, .b64Dec]) :
    i ∉ writesTable ∧ i ∈ producesOutput := by
  have h : ∀ j ∈ [Instr.hexEnc, .hexEncSep, .hexDec, .b64Enc, .b64Dec], j ∉ writesTable ∧ j ∈ producesOutput := by
    decide
  exact h i hi

namespace ExecShape

section
variable {i : Instr} {s t : State} (h : ExecShape i s t)
include h

/-- R22, R23. -/
theorem sameKey (hi : i ≠ .keySet) : SameKey s t := by
  cases h with
  | key _ hkey => exact absurd hkey hi
  | raised => exact ⟨rfl, rfl⟩
  | plain | table | data | message | helper => simp

/-- R25: KEY_SET clears SVALID. -/
theorem sameTable (hkey : i ≠ .keySet) (hi : i ∉ writesTable) : SameTable s t := by
  cases h with
  | key _ hi' => exact absurd hi' hkey
  | table hi' => exact absurd (hi' ▸ by decide) hi
  | message _ _ _ hi' => exact absurd (messageCommand_lists hi').1 hi
  | raised => exact ⟨rfl, rfl⟩
  | plain | data | helper => simp

/-- R24: the only table a command writes is the fresh one. -/
theorem sTable_eq : t.sTable = if i ∈ writesTable ∧ t.err = .ok then s.freshTable else s.sTable := by
  cases h with
  | raised e f he => simp [he]
  | plain f hi => rcases hi with rfl | rfl <;> simp [writesTable, needsKey]
  | key k hi => simp [hi, writesTable, needsKey]
  | table hi => simp [hi, writesTable, needsKey]
  | data ab hi => rcases hi with rfl | rfl <;> simp [writesTable, needsKey]
  | message o f x hi => simp [(messageCommand_lists hi).1]
  | helper o hi => simp [(helperCommand_lists hi).1]

/-- R21. -/
theorem sameData (hencb : i ≠ .encb) (hdecb : i ≠ .decb) : SameData s t := by
  cases h with
  | data _ hi => exact absurd hi (by simp [hencb, hdecb])
  | raised => exact ⟨rfl, rfl⟩
  | plain | key | table | message | helper => simp

/-- R27, R29. -/
theorem sameOut (hi : i ∉ producesOutput) : SameOut s t := by
  cases h with
  | message _ _ _ hi' => exact absurd (messageCommand_lists hi').2 hi
  | helper _ hi' => exact absurd (helperCommand_lists hi').2 hi
  | raised => exact sameOut_refl s
  | plain | key | table | data => simp

/-- What a command that produces output has written when it succeeds. -/
theorem exists_wroteOut (hi : i ∈ producesOutput) (herr : t.err = .ok) :
    ∃ o, o.length ≤ s.cfg.bufBytes ∧ WroteOut s t o := by
  cases h with
  | raised _ _ he => exact absurd herr he
  | plain _ hi' => rcases hi' with rfl | rfl <;> exact absurd hi (by decide)
  | key _ hi' => exact absurd (hi' ▸ hi) (by decide)
  | table hi' => exact absurd (hi' ▸ hi) (by decide)
  | data _ hi' => rcases hi' with rfl | rfl <;> exact absurd hi (by decide)
  | message o _ _ _ _ ho => exact ⟨o, ho, by simp⟩
  | helper o _ ho => exact ⟨o, ho, by simp⟩

theorem sameSetup : SameSetup s t := by
  cases h with
  | raised => exact sameSetup_refl s
  | plain | key | table | data | message | helper => simp

end

end ExecShape

/-! ### OUTLEN -/

/-- R7, R27: OUTLEN holds the length of an output that fits, whatever the size of the buffers. -/
theorem outlen_toNat_of_wroteOut {s t : State} {o : List Byte} (hcfg : s.cfg.wf = true)
    (ho : o.length ≤ s.cfg.bufBytes) (h : WroteOut s t o) : t.outlen.toNat = o.length := by
  simp only [Config.wf, Bool.and_eq_true, decide_eq_true_eq] at hcfg
  obtain ⟨-, -, -, hsize⟩ := hcfg
  rw [h.1, BitVec.toNat_ofNat, Nat.mod_eq_of_lt (by omega)]

/-- Settles O13, clause by clause from the shape of the command's end. -/
theorem commandsWriteOnlyTheirOwnState : Obligations.CommandsWriteOnlyTheirOwnState := by
  intro i s t h
  have hshape := exec_next_shape h
  refine ⟨hshape.sameKey, hshape.sameTable, hshape.sTable_eq, hshape.sameData, hshape.sameOut, ?_, hshape.sameSetup⟩
  intro a ha herr hcfg hi
  obtain ⟨o, ho, hout⟩ := hshape.exists_wroteOut hi herr
  rw [outlen_toNat_of_wroteOut hcfg ho hout] at ha
  obtain ⟨-, -, hbeyond⟩ := hout
  exact hbeyond a ha

/-! ### KEY and S from one state to the next -/

/-- R22: the engine's turn changes KEY only by a pending KEY_SET. -/
theorem complete_key {s t : State} (h : complete s = .next t) (hne : t.key ≠ s.key) :
    ∃ p, s.pending = some p ∧ p.cmd = 0x001 := by
  obtain ⟨u, hu, hcase⟩ := complete_next s
  obtain rfl : u = t := by simpa [hu] using h
  rcases hcase with ⟨-, rfl⟩ | ⟨-, rfl⟩ | ⟨p, i, hp, hd, hshape⟩
  · exact absurd rfl hne
  · exact absurd rfl hne
  · have hi : i = .keySet := by
      by_contra hi
      exact hne (hshape.sameKey hi).1
    exact ⟨p, hp, (encode_eq_of_decode (hi ▸ hd)).symm⟩

/-- R24: the engine's turn changes S only by a pending KSCHED, ENC or DEC. -/
theorem complete_sTable {s t : State} (h : complete s = .next t) (hne : t.sTable ≠ s.sTable) :
    ∃ p i, s.pending = some p ∧ decode p.cmd = .ok i ∧ i ∈ writesTable := by
  obtain ⟨u, hu, hcase⟩ := complete_next s
  obtain rfl : u = t := by simpa [hu] using h
  rcases hcase with ⟨-, rfl⟩ | ⟨-, rfl⟩ | ⟨p, i, hp, hd, hshape⟩
  · exact absurd rfl hne
  · exact absurd rfl hne
  · refine ⟨p, i, hp, hd, ?_⟩
    by_contra hi
    rw [hshape.sTable_eq, if_neg fun h => hi h.1] at hne
    exact hne rfl

theorem eq_of_regOf_ctrl {off : Nat} (ha : off % 4 = 0) (hl : off < 0x3000) (h : regOf off = .ctrl) : off = 0x004 := by
  have hcases := regOf_cases off ha hl
  simp only [h] at hcases
  simpa using hcases

/-- R30: without SRST a write to CTRL sets IE. -/
theorem writeCtrl_ie (s : State) {v : Word} (h : v.getLsbD 1 = false) :
    s.writeCtrl v = { s with ie := v.getLsbD 0 } :=
  if_neg (Bool.eq_false_iff.mp h)

/-- R55, R56: of all writes only SRST changes KEY. -/
theorem hostWrite_key {s : State} {off : Nat} {v : Word} (ha : off % 4 = 0) (hl : off < 0x3000)
    (hne : (hostWrite s off v).key ≠ s.key) : off = 0x004 ∧ v.getLsbD 1 = true := by
  rcases hostWrite_cases s off v with ⟨-, -, hw⟩ | ⟨-, hw⟩
  · exact absurd (by rw [hw]; rfl) hne
  · rw [hw] at hne
    cases hr : regOf off with
    | ctrl =>
      refine ⟨eq_of_regOf_ctrl ha hl hr, ?_⟩
      by_contra hv
      rw [hr, State.writeReg, writeCtrl_ie s (Bool.eq_false_of_not_eq_true hv)] at hne
      exact hne rfl
    | inWindow i =>
      rw [hr, State.writeReg] at hne
      split at hne <;> exact absurd rfl hne
    | status | cmd | inlen | dataA | dataB | id | outlen | key | bufsize | sWord | outWindow | reserved =>
      rw [hr] at hne
      exact absurd rfl hne

/-- R24: the host cannot write S, and SRST keeps it. -/
theorem hostWrite_sTable (s : State) (off : Nat) (v : Word) : (hostWrite s off v).sTable = s.sTable := by
  rcases hostWrite_cases s off v with ⟨-, -, hw⟩ | ⟨-, hw⟩
  · rw [hw]
    rfl
  · rw [hw]
    cases regOf off with
    | ctrl =>
      rw [State.writeReg, State.writeCtrl]
      split <;> rfl
    | inWindow i =>
      rw [State.writeReg]
      split <;> rfl
    | status | cmd | inlen | dataA | dataB | id | outlen | key | bufsize | sWord | outWindow | reserved => rfl

/-- Settles O14, by the kinds of step. -/
theorem keyAndTableChangeOnlyByTheirCommandsAndResets :
    Obligations.KeyAndTableChangeOnlyByTheirCommandsAndResets := by
  intro s t h
  rcases step_cases h with h | ⟨rest, hs, h⟩ | ⟨rest, hs, rfl⟩ | ⟨rest, off, v, hs, ha, hl, rfl⟩
    | ⟨rest, off, -, -, -, rfl⟩ | ⟨rest, -, -, rfl⟩ | ⟨rest, -, -, rfl⟩ | ⟨rest, sched, -, rfl⟩
  · exact ⟨fun hne => .inl (complete_key h hne), fun hne => .inl (complete_sTable h hne)⟩
  · exact ⟨fun hne => .inl (complete_key (s := s.advance rest) h hne),
      fun hne => .inl (complete_sTable (s := s.advance rest) h hne)⟩
  · exact ⟨fun _ => .inr (.inr ⟨rest, hs⟩), fun _ => .inr ⟨rest, hs⟩⟩
  · refine ⟨fun hne => .inr (.inl ?_), fun hne => absurd (hostWrite_sTable _ off v) hne⟩
    obtain ⟨rfl, hv⟩ := hostWrite_key ha hl hne
    exact ⟨v, rest, hs, hv⟩
  all_goals exact ⟨absurd rfl, absurd rfl⟩

end Sys2Proof.Machine
end

section
/-! PROOF. The host's accesses (20_memory.md R52 to R57): what a word read returns and what a word write does, place
by place of R54's map, while BUSY = 0 and while BUSY = 1. -/

namespace Sys2Proof.Machine

/-! ### The bytes of a word (R53) -/

theorem extractLsb'_le32 (b : Nat → Byte) {m : Nat} (h : m < 4) :
    (le32 (b 0) (b 1) (b 2) (b 3)).extractLsb' (8 * m) 8 = b m := by
  obtain ⟨h0, h1, h2, h3⟩ := le32_byte (b 0) (b 1) (b 2) (b 3)
  match m, h with
  | 0, _ => exact h0
  | 1, _ => exact h1
  | 2, _ => exact h2
  | 3, _ => exact h3

theorem bytesLe_getD (w : Word) {m : Nat} (h : m < 4) : (bytesLe w).getD m 0 = w.extractLsb' (8 * m) 8 := by
  match m, h with
  | 0, _ | 1, _ | 2, _ | 3, _ => rfl

theorem wordAt_byte (mem : Memory) (buf : BufId) (cycle a : Nat) {m : Nat} (h : m < 4) :
    (mem.wordAt buf cycle a).extractLsb' (8 * m) 8 = mem.byteAt buf cycle (a + m) :=
  extractLsb'_le32 (fun n => mem.byteAt buf cycle (a + n)) h

/-- R22. -/
theorem keyRegister_byte (k : WorkingKey) {n m : Nat} (hn : n < 4) (hm : m < 4) :
    (keyRegister k n).extractLsb' (8 * m) 8 = k[4 * n + m] := by
  refine (extractLsb'_le32 (fun j => k[4 * n + j]?.getD 0) hm).trans ?_
  simp [show 4 * n + m < 16 by omega]

theorem keyWord_eq_getElem (S : RoundKeys) {i : Nat} (h : i < 26) : keyWord S i = S[i] := by
  simp [keyWord, h]

/-! ### Reads while BUSY = 0 -/

@[simp] theorem advance_readReg (s : State) (rest : List Event) (r : Reg) :
    (s.advance rest).readReg r = s.readReg r := by
  cases r <;> rfl

theorem hostRead_idle {s : State} (h : s.busy = false) (off : Nat) :
    hostRead s off = { s with hostReads := (off, s.readReg (regOf off)) :: s.hostReads } := by
  have hdraw : readsDraw s off = false := by simp [readsDraw, h]
  rw [hostRead, readData_idle h, hdraw]
  rfl

theorem step_rd_idle {s : State} {off : Nat} {rest : List Event} (hb : s.busy = false) (ha : off % 4 = 0)
    (hl : off < 0x3000) (hs : s.schedule = .host (.rd .word off) :: rest) :
    step s = .next { s with schedule := rest, hostReads := (off, s.readReg (regOf off)) :: s.hostReads } := by
  rw [step_rd ha hl hs, hostRead_idle (s := s.advance rest) hb, advance_readReg]
  rfl

theorem ctrlWord_fields (s : State) : s.ctrlWord.getLsbD 0 = s.ie ∧ s.ctrlWord.extractLsb' 1 31 = 0 := by
  cases h : s.ie <;> simp [State.ctrlWord, h]

/-- R55: a buffer word below BUF_BYTES is its four bytes, and any other reads 0. -/
theorem readReg_inWindow (s : State) (i : Nat) {m : Nat} (h : m < 4) :
    (i < s.cfg.bufBytes → (s.readReg (.inWindow i)).extractLsb' (8 * m) 8 = s.inByte (i + m))
      ∧ (s.cfg.bufBytes ≤ i → s.readReg (.inWindow i) = 0) := by
  refine ⟨fun hi => ?_, fun hi => if_neg (by omega)⟩
  rw [State.readReg, if_pos hi]
  exact wordAt_byte _ _ _ _ h

theorem readReg_outWindow (s : State) (i : Nat) {m : Nat} (h : m < 4) :
    (i < s.cfg.bufBytes → (s.readReg (.outWindow i)).extractLsb' (8 * m) 8 = s.outByte (i + m))
      ∧ (s.cfg.bufBytes ≤ i → s.readReg (.outWindow i) = 0) := by
  refine ⟨fun hi => ?_, fun hi => if_neg (by omega)⟩
  rw [State.readReg, if_pos hi]
  exact wordAt_byte _ _ _ _ h

/-- Settles O47: the data of the read are `readReg` of the place, place by place of R54's map. -/
theorem readsWhileIdle : Obligations.ReadsWhileIdle := by
  intro s off rest hb ha hl hs
  refine ⟨s.readReg (regOf off), step_rd_idle hb ha hl hs, ?id, ?ctrl, ?status, ?cmd, ?inlen, ?outlen, ?dataA, ?dataB,
    ?key, ?bufsize, ?reservedLow, ?sWord, ?reservedHigh, ?inWindow, ?outWindow⟩
  case ctrl =>
    rintro rfl
    exact ctrlWord_fields s
  case key =>
    rintro n m ⟨hn, hm⟩ rfl
    rw [regOf_key n hn]
    exact keyRegister_byte s.key hn hm
  case reservedLow =>
    intro h1 h2
    rw [regOf_reserved off (.inl ⟨h1, h2⟩), State.readReg]
  case sWord =>
    rintro i hi rfl
    rw [regOf_sWord i hi]
    exact keyWord_eq_getElem s.sTable hi
  case reservedHigh =>
    intro h1 h2
    rw [regOf_reserved off (.inr ⟨h1, by omega⟩), State.readReg]
  case inWindow =>
    rintro i m hm rfl hi
    rw [regOf_inWindow_eq i hi]
    exact readReg_inWindow s i hm
  case outWindow =>
    rintro i m hm rfl
    rw [regOf_outWindow]
    exact readReg_outWindow s i hm
  all_goals
    rintro rfl
    rfl

/-! ### Writes while BUSY = 0 -/

theorem step_wr_idle {s : State} {off : Nat} {v : Word} {rest : List Event} (hb : s.busy = false) (ha : off % 4 = 0)
    (hl : off < 0x3000) (hs : s.schedule = .host (.wr .word off v) :: rest) :
    step s = .next ((s.advance rest).writeReg (regOf off) v) := by
  rw [step_wr ha hl hs, hostWrite_idle (by simpa using hb)]

/-- R56: a word written below BUF_BYTES. -/
theorem writeReg_inWindow {s : State} {i : Nat} (h : i < s.cfg.bufBytes) (v : Word) :
    s.writeReg (.inWindow i) v = { s with inBuf := s.inBuf.putBytes i (bytesLe v) } :=
  if_pos h

/-- R53, R56: the four bytes of the word stand at its index and above, and no other byte changes. -/
theorem inByte_putWord (s : State) (i : Nat) (v : Word) :
    (∀ n, n < 4 → ({ s with inBuf := s.inBuf.putBytes i (bytesLe v) } : State).inByte (i + n) = v.extractLsb' (8 * n) 8)
      ∧ ∀ a, a < i ∨ i + 4 ≤ a →
        ({ s with inBuf := s.inBuf.putBytes i (bytesLe v) } : State).inByte a = s.inByte a := by
  refine ⟨fun n hn => ?_, fun a ha => ?_⟩
  · exact (Memory.byteAt_putBytes_inside _ _ _ _ _ _ (by simpa using hn)).trans (bytesLe_getD v hn)
  · exact Memory.byteAt_putBytes_outside _ _ _ _ _ _ (by simpa using ha)

/-- R56: where the map has no register that the host writes, and no byte of IN_BUF. -/
theorem writeReg_ignored {s : State} {off : Nat} (ha : off % 4 = 0) (hl : off < 0x3000)
    (hoff : off ∉ [0x004, 0x008, 0x00C, 0x010, 0x018, 0x01C])
    (hbuf : ¬ (0x1000 ≤ off ∧ off < 0x2000 ∧ off - 0x1000 < s.cfg.bufBytes)) (v : Word) :
    s.writeReg (regOf off) v = s := by
  simp only [List.mem_cons, List.not_mem_nil, or_false] at hoff
  have hcases := regOf_cases off ha hl
  cases hr : regOf off with
  | id | outlen | key | bufsize | sWord | outWindow | reserved => rfl
  | inWindow i =>
    simp only [hr] at hcases
    have hi : ¬ i < s.cfg.bufBytes := by
      obtain ⟨hge, heq⟩ := regOf_inWindow hr
      have : off < 0x2000 := by
        simp at hcases
        omega
      omega
    exact if_neg hi
  | ctrl | status | cmd | inlen | dataA | dataB =>
    simp only [hr] at hcases
    simp at hcases
    omega

/-- Settles O48: the write is `writeReg` of the place, place by place of R54's map. -/
theorem writesWhileIdle : Obligations.WritesWhileIdle := by
  intro s off v rest hb ha hl hs
  rw [step_wr_idle hb ha hl hs]
  refine ⟨?ctrl, ?status, ?inlen, ?dataA, ?dataB, ?inWindow, ?ignored⟩
  case ctrl =>
    rintro rfl hv
    exact congrArg _ (writeCtrl_ie _ hv)
  case inWindow =>
    rintro i rfl hi hbuf
    obtain ⟨hinside, houtside⟩ := inByte_putWord (s.advance rest) i v
    rw [regOf_inWindow_eq i hi, writeReg_inWindow (s := s.advance rest) hbuf]
    exact ⟨_, rfl, rfl, hinside, houtside⟩
  case ignored =>
    intro hoff hbuf
    exact congrArg _ (writeReg_ignored (s := s.advance rest) ha hl hoff hbuf v)
  all_goals
    rintro rfl
    rfl

/-! ### Accesses while BUSY = 1 (R57) -/

theorem writableWhileBusy_eq_false {off : Nat} (ha : off % 4 = 0) (hl : off < 0x3000) (hctrl : off ≠ 0x004)
    (hstatus : off ≠ 0x008) : (regOf off).writableWhileBusy = false := by
  have hcases := regOf_cases off ha hl
  cases hr : regOf off with
  | ctrl | status =>
    simp [hr] at hcases
    omega
  | id | cmd | inlen | outlen | dataA | dataB | key | bufsize | sWord | inWindow | outWindow | reserved => rfl

theorem readableWhileBusy_eq_false {off : Nat} (ha : off % 4 = 0) (hl : off < 0x3000)
    (hoff : off ∉ [0x000, 0x004, 0x008, 0x030]) : (regOf off).readableWhileBusy = false := by
  simp only [List.mem_cons, List.not_mem_nil, or_false] at hoff
  have hcases := regOf_cases off ha hl
  cases hr : regOf off with
  | id | ctrl | status | bufsize =>
    simp [hr] at hcases
    omega
  | cmd | inlen | outlen | dataA | dataB | key | sWord | inWindow | outWindow | reserved => rfl

theorem readableWhileBusy_eq_true {off : Nat} (hoff : off ∈ [0x000, 0x004, 0x008, 0x030]) :
    (regOf off).readableWhileBusy = true := by
  have h : ∀ n ∈ [0x000, 0x004, 0x008, 0x030], (regOf n).readableWhileBusy = true := by decide
  exact h off hoff

/-- R57: a register that reads its value whatever BUSY is. -/
theorem hostRead_readable {s : State} {off : Nat} (hr : (regOf off).readableWhileBusy = true) :
    hostRead s off = { s with hostReads := (off, s.readReg (regOf off)) :: s.hostReads } := by
  have hdraw : readsDraw s off = false := by simp [readsDraw, hr]
  rw [hostRead, readData, hdraw]
  rfl

theorem hostRead_draw {s : State} {off : Nat} (hb : s.busy = true) (hr : (regOf off).readableWhileBusy = false) :
    hostRead s off
      = { s with hostReads := (off, Config.busyRead s.draws) :: s.hostReads, draws := s.draws + 1 } := by
  have hdraw : readsDraw s off = true := by simp [readsDraw, hb, hr]
  rw [hostRead, readData, hdraw]
  rfl

/-- Settles O49: of the writes CTRL and STATUS act, and of the reads four registers answer their values. -/
theorem accessesWhileBusy : Obligations.AccessesWhileBusy := by
  intro s off rest hb ha hl
  refine ⟨fun v hs => ?_, fun hs => ?_⟩
  · rw [step_wr ha hl hs]
    refine ⟨fun hctrl hstatus => ?_, ?_, ?_, ?_⟩
    · exact congrArg _ (hostWrite_busy (s := s.advance rest) hb (writableWhileBusy_eq_false ha hl hctrl hstatus))
    · rintro rfl
      exact congrArg _ (hostWrite_status _ v)
    · rintro rfl hv
      rw [hostWrite_ctrl, writeCtrl_ie _ hv]
      rfl
    · rintro rfl hv
      rw [hostWrite_ctrl, writeCtrl_softReset _ hv]
      rfl
  · rw [step_rd ha hl hs]
    refine ⟨fun hoff => ?_, fun hoff => ?_⟩
    · rw [hostRead_readable (readableWhileBusy_eq_true hoff), advance_readReg]
      refine ⟨_, rfl, ?_, ?_, ?_, ?_⟩
      all_goals
        rintro rfl
        rfl
    · exact congrArg _ (hostRead_draw (s := s.advance rest) hb (readableWhileBusy_eq_false ha hl hoff))

/-! ### A word written and read back (R53) -/

/-- A word read where it was written. -/
theorem wordAt_putBytes (mem : Memory) (buf : BufId) (cycle i : Nat) (v : Word) :
    (mem.putBytes i (bytesLe v)).wordAt buf cycle i = v := by
  have hbyte (n : Nat) (hn : n < 4) :
      (mem.putBytes i (bytesLe v)).byteAt buf cycle (i + n) = v.extractLsb' (8 * n) 8 :=
    (Memory.byteAt_putBytes_inside _ _ _ _ _ _ (by simpa using hn)).trans (bytesLe_getD v hn)
  have h0 := hbyte 0 (by decide)
  rw [Nat.add_zero] at h0
  rw [Memory.wordAt, h0, hbyte 1 (by decide), hbyte 2 (by decide), hbyte 3 (by decide)]
  exact le32_bytesLe v

/-- Settles O50: the write is `writeReg_inWindow`, and the read after it answers the word that stands there. -/
theorem inBufWordReadsBack : Obligations.InBufWordReadsBack := by
  intro s i v rest hb ha hi hbuf hs
  have hoff : (0x1000 + i) % 4 = 0 := by omega
  have hlt : 0x1000 + i < 0x3000 := by omega
  have hwrite := step_wr_idle hb hoff hlt hs
  rw [regOf_inWindow_eq i hi, writeReg_inWindow (by exact hbuf)] at hwrite
  refine ⟨_, _, hwrite, step_rd_idle (by exact hb) hoff hlt rfl, ?_, rfl, ?_, ?_⟩
  · rw [regOf_inWindow_eq i hi, State.readReg, if_pos (by exact hbuf), wordAt_putBytes]
    rfl
  · exact (inByte_putWord s i v).1 0 (by decide)
  · exact (inByte_putWord s i v).1 3 (by decide)

end Sys2Proof.Machine
end

section
/-! PROOF. Runs of several steps (30_encoding.md R77 to R79, 44_control.md R202): how runs compose, a schedule of
one-step events, the host's waits, and LDIN. -/

namespace Sys2Proof.Machine

/-! ### Runs -/

theorem runSteps_succ {s t : State} (h : step s = .next t) (n : Nat) : runSteps (n + 1) s = runSteps n t := by
  simp [runSteps, h]

theorem runSteps_one {s t : State} (h : step s = .next t) : runSteps 1 s = .next t := runSteps_succ h 0

theorem runSteps_add {s t : State} {m : Nat} (h : runSteps m s = .next t) (n : Nat) :
    runSteps (m + n) s = runSteps n t := by
  induction m generalizing s with
  | zero =>
    obtain rfl : s = t := Host.Outcome.next.inj h
    rw [Nat.zero_add]
  | succ m ih =>
    rw [runSteps] at h
    split at h
    next u hu =>
      rw [Nat.succ_add, runSteps_succ hu]
      exact ih h
    next => cases h
    next => cases h

/-! ### What is left of the schedule -/

theorem complete_schedule {s t : State} (h : complete s = .next t) : t.schedule = s.schedule := by
  obtain ⟨u, hu, hcase⟩ := complete_next s
  obtain rfl : u = t := by simpa [hu] using h
  rcases hcase with ⟨-, rfl⟩ | ⟨-, rfl⟩ | ⟨p, i, -, -, hshape⟩
  · rfl
  · rfl
  · obtain ⟨-, -, -, -, -, hsched, -⟩ := hshape.sameSetup
    exact hsched

theorem writeReg_schedule (s : State) (r : Reg) (v : Word) : (s.writeReg r v).schedule = s.schedule := by
  cases r with
  | ctrl =>
    rw [State.writeReg, State.writeCtrl]
    split <;> rfl
  | inWindow i =>
    rw [State.writeReg]
    split <;> rfl
  | status | cmd | inlen | dataA | dataB | id | outlen | key | bufsize | sWord | outWindow | reserved => rfl

theorem hostWrite_schedule (s : State) (off : Nat) (v : Word) : (hostWrite s off v).schedule = s.schedule := by
  rcases hostWrite_cases s off v with ⟨-, -, hw⟩ | ⟨-, hw⟩
  · rw [hw, State.markAccErr_schedule]
  · rw [hw, writeReg_schedule]

/-- An event that takes one step leaves the rest of the schedule. -/
theorem step_oneStep {s : State} {e : Event} {rest : List Event} (hs : s.schedule = e :: rest) (he : e.oneStep) :
    ∃ t, step s = .next t ∧ t.schedule = rest := by
  cases e with
  | engine =>
    obtain ⟨t, ht⟩ := exists_complete_next (s.advance rest)
    exact ⟨t, (step_engine hs).trans ht, complete_schedule ht⟩
  | powerOn => exact ⟨_, step_powerOn hs, rfl⟩
  | host op =>
    rw [step_host hs]
    cases op with
    | wr width off v => exact ⟨_, hostWr_defined he, hostWrite_schedule _ off v⟩
    | rd width off => exact ⟨_, hostRd_defined he, rfl⟩
    | poll | waitIrq | rdout => exact absurd he id

/-- Settles O60, by induction on the schedule; at its end the engine has the move. -/
theorem scheduleRunsToIdle : Obligations.ScheduleRunsToIdle := by
  intro s h
  generalize hsched : s.schedule = events at h
  induction events generalizing s with
  | nil =>
    obtain ⟨t, ht⟩ := exists_complete_next s
    have hstep : step s = .next t := (step_of_schedule_nil hsched).trans ht
    exact ⟨t, runSteps_one hstep, (complete_schedule ht).trans hsched, t.busy_false_iff.mpr (complete_idle ht)⟩
  | cons e events ih =>
    obtain ⟨t, ht, hrest⟩ := step_oneStep hsched (h e List.mem_cons_self)
    obtain ⟨u, hu, hend⟩ := ih t hrest fun e' he' => h e' (List.mem_cons_of_mem e he')
    exact ⟨u, (runSteps_succ ht _).trans hu, hend⟩

/-! ### POLL, WAITIRQ and RDOUT (R78, R79) -/

/-- The engine's turn while the host waits. -/
theorem exists_complete_idle (s : State) : ∃ t, complete s = .next t ∧ t.busy = false ∧ t.schedule = s.schedule := by
  obtain ⟨t, ht⟩ := exists_complete_next s
  exact ⟨t, ht, t.busy_false_iff.mpr (complete_idle ht), complete_schedule ht⟩

theorem complete_of_idle {s : State} (h : s.busy = false) : complete s = .next s := by
  simp [complete, s.busy_false_iff.mp h]

/-- Settles O55: a wait is the engine's turn while BUSY = 1; then POLL is a read of STATUS and WAITIRQ is over. -/
theorem hostWaitsAndReadsOut : Obligations.HostWaitsAndReadsOut := by
  intro s rest
  refine ⟨fun hs => ⟨fun hb => ?_, fun hb => ?_⟩, fun hs => ⟨fun hirq => ?_, fun hirq _ => ?_, fun hirq hb => ?_⟩,
    fun hs hb => ?_⟩
  · rw [step_host hs, hostStep, if_pos hb]
    exact exists_complete_idle s
  · rw [step_host hs, hostStep, if_neg (by simp [hb]), hostRead_idle (s := s.advance rest) hb, advance_readReg]
    rfl
  · rw [step_host hs, hostStep, if_pos hirq]
    rfl
  · rw [step_host hs, hostStep, if_neg (by simp [hirq])]
    exact exists_complete_idle s
  · rw [step_host hs, hostStep, if_neg (by simp [hirq]), complete_of_idle hb]
  · have hread : readData (s.advance rest) 0x014 = s.outlen := readData_idle hb
    refine ⟨_, step_host hs, ?_, ?_⟩
    · simp [hread]
    · simp [hread, outReads]

/-! ### LDIN (R79) -/

/-- The `k`-th write of `LDIN b`. -/
def ldinWord (b : List Byte) (k : Nat) : Word :=
  le32 (b.getD (4 * k) 0) (b.getD (4 * k + 1) 0) (b.getD (4 * k + 2) 0) (b.getD (4 * k + 3) 0)

theorem ldin_eq (b : List Byte) :
    ldin b = ((List.range ((b.length + 3) / 4)).map fun k => wr (0x1000 + 4 * k) (ldinWord b k))
      ++ [wr 0x010 (BitVec.ofNat 32 b.length)] := rfl

theorem ldin_length (b : List Byte) : (ldin b).length = (b.length + 3) / 4 + 1 := by
  simp [ldin]

theorem ldinWord_byte (b : List Byte) (k : Nat) {m : Nat} (h : m < 4) :
    (ldinWord b k).extractLsb' (8 * m) 8 = b.getD (4 * k + m) 0 :=
  extractLsb'_le32 (fun n => b.getD (4 * k + n) 0) h

/-- The state is as before, but for the schedule and IN_BUF, which holds the first `n` bytes of `b`. -/
def Loaded (s : State) (b : List Byte) (rest : List Event) (n : Nat) (t : State) : Prop :=
  t = { s with schedule := rest, inBuf := t.inBuf } ∧ ∀ a, a < n → t.inByte a = b.getD a 0

/-- One more word of LDIN: the words before it stay. -/
theorem Loaded.step_word {s t : State} {b : List Byte} {rest : List Event} {n : Nat} (hb : s.busy = false)
    (hn : 4 * n < s.cfg.bufBytes) (hlt : 4 * n < 0x1000)
    (h : Loaded s b (wr (0x1000 + 4 * n) (ldinWord b n) :: rest) (4 * n) t) :
    ∃ u, step t = .next u ∧ Loaded s b rest (4 * (n + 1)) u := by
  obtain ⟨hframe, hbytes⟩ := h
  have hbusy : t.busy = false := by rw [hframe]; exact hb
  have hsched : t.schedule = wr (0x1000 + 4 * n) (ldinWord b n) :: rest := by rw [hframe]
  have hcfg : (t.advance rest).cfg = s.cfg := by rw [hframe]; rfl
  have hstep := step_wr_idle hbusy (by omega) (by omega) hsched
  rw [regOf_inWindow_eq _ hlt, writeReg_inWindow (by rwa [hcfg])] at hstep
  refine ⟨_, hstep, by rw [hframe]; rfl, fun a ha => ?_⟩
  obtain ⟨hinside, houtside⟩ := inByte_putWord (t.advance rest) (4 * n) (ldinWord b n)
  rcases Nat.lt_or_ge a (4 * n) with hlow | hhigh
  · exact (houtside a (.inl hlow)).trans (hbytes a hlow)
  · obtain ⟨m, rfl⟩ := Nat.exists_eq_add_of_le hhigh
    rw [hinside m (by omega), ldinWord_byte b n (by omega)]

/-- The writes of LDIN to IN_BUF, by induction on how many there are. -/
theorem exists_loaded {s : State} {b : List Byte} (hb : s.busy = false) (hsize : s.cfg.bufBytes ≤ 4096)
    (hlen : b.length ≤ s.cfg.bufBytes) :
    ∀ (n : Nat) (rest : List Event), n ≤ (b.length + 3) / 4 →
      s.schedule = ((List.range n).map fun k => wr (0x1000 + 4 * k) (ldinWord b k)) ++ rest →
      ∃ t, runSteps n s = .next t ∧ Loaded s b rest (4 * n) t := by
  intro n
  induction n with
  | zero =>
    intro rest _ hs
    obtain rfl : s.schedule = rest := hs
    exact ⟨s, rfl, rfl, by simp⟩
  | succ n ih =>
    intro rest hn hs
    rw [List.range_succ, List.map_append, List.append_assoc] at hs
    obtain ⟨t, ht, hloaded⟩ := ih _ (by omega) hs
    obtain ⟨u, hu, hloaded'⟩ := hloaded.step_word hb (by omega) (by omega)
    exact ⟨u, (runSteps_add ht 1).trans (runSteps_one hu), hloaded'⟩

/-- Settles O56: the writes to IN_BUF one by one, and then the write to INLEN, where the length is a 32-bit word. -/
theorem ldinPlacesTheBytes : Obligations.LdinPlacesTheBytes := by
  intro s b rest hb hcfg hlen hs
  simp only [Config.wf, Bool.and_eq_true, decide_eq_true_eq] at hcfg
  obtain ⟨-, -, -, hsize⟩ := hcfg
  rw [ldin_eq, List.append_assoc] at hs
  obtain ⟨t, ht, hframe, hbytes⟩ := exists_loaded hb hsize hlen _ _ le_rfl hs
  have hbusy : t.busy = false := by rw [hframe]; exact hb
  have hsched : t.schedule = wr 0x010 (BitVec.ofNat 32 b.length) :: rest := by rw [hframe]; rfl
  have hstep := step_wr_idle hbusy (by decide) (by decide) hsched
  refine ⟨(t.advance rest).writeReg (regOf 0x010) (BitVec.ofNat 32 b.length), ?_,
    fun a ha => hbytes a (by omega), ?_, rfl, hbusy, ?_⟩
  · rw [ldin_length, runSteps_add ht 1]
    exact runSteps_one hstep
  · exact Nat.mod_eq_of_lt (by omega)
  · rw [hframe]
    exact ⟨⟨rfl, rfl⟩, ⟨rfl, rfl⟩, ⟨rfl, rfl⟩, rfl, fun _ => rfl⟩

end Sys2Proof.Machine
end

section
/-! PROOF. The cipher (40_key_scheduler.md R107, 41_block_transform.md R121, R128, 42_message_transform.md R149):
DecBlock after EncBlock, what a byte of a transformed string depends on, and the two block commands one after the
other. -/

namespace Sys2Proof.Machine

/-! ### Rotations (R120, R121) -/

/-- ROTR finds each bit where ROTL put it. -/
theorem rotr_rotl (x : Word) (s : Nat) : rotr (rotl x s) s = x := by
  apply BitVec.eq_of_getLsbD_eq
  intro i hi
  rw [getLsbD_rotr _ _ hi, getLsbD_rotl _ _ hi]

/-- Settles O28. -/
theorem rotationsAreCircularAndInverse : Obligations.RotationsAreCircularAndInverse :=
  fun x s => ⟨fun _ hi => getLsbD_rotl x s hi, fun _ hi => getLsbD_rotr x s hi, rotr_rotl x s, rotl_rotr x s⟩

/-! ### DecBlock after EncBlock (R128) -/

theorem decRound_encRound (S : RoundKeys) (ab : Word × Word) (round : Nat) :
    decRound S (encRound S ab round) round = ab := by
  simp [encRound, decRound, rotr_rotl]

/-- The round done last is the one undone first. -/
theorem foldl_decRound_reverse_foldl_encRound (S : RoundKeys) (rounds : List Nat) (ab : Word × Word) :
    rounds.reverse.foldl (decRound S) (rounds.foldl (encRound S) ab) = ab := by
  induction rounds generalizing ab with
  | nil => rfl
  | cons round rounds ih => rw [List.reverse_cons, List.foldl_concat, List.foldl_cons, ih, decRound_encRound]

theorem decBlock_encBlock (S : RoundKeys) (ab : Word × Word) : decBlock S (encBlock S ab) = ab := by
  simp only [decBlock, encBlock, foldl_decRound_reverse_foldl_encRound, BitVec.add_sub_cancel]

/-- Settles O30: each of the two is the other's inverse. -/
theorem blockFunctionsAreInverse : Obligations.BlockFunctionsAreInverse :=
  fun S => ⟨fun ab => ⟨decBlock_encBlock S ab, encBlock_decBlock S ab⟩,
    Function.bijective_iff_has_inverse.mpr ⟨decBlock S, decBlock_encBlock S, encBlock_decBlock S⟩⟩

/-! ### ENCB and DECB on the machine (R126, R127) -/

/-- The command replaces DATA_A and DATA_B by `f` of them where SVALID = 1. -/
def IsBlockCommand (i : Instr) (f : RoundKeys → Word × Word → Word × Word) : Prop :=
  ∀ s : State, s.operands.sValid = true →
    exec i s = .next ((s.commitData (f s.operands.sTable (s.operands.dataA, s.operands.dataB))).succeed .none false)

theorem isBlockCommand_encb : IsBlockCommand .encb encBlock := fun _ => exec_encb_ok

theorem isBlockCommand_decb : IsBlockCommand .decb decBlock := fun _ => exec_decb_ok

/-- A block command issued to an idle block with a valid table, and the engine's turn. -/
theorem IsBlockCommand.run {i : Instr} {f : RoundKeys → Word × Word → Word × Word} (hi : IsBlockCommand i f)
    {s : State} {rest : List Event} (hb : s.busy = false) (hv : s.sValid = true)
    (hs : s.schedule = issue (.named i) :: .engine :: rest) :
    ∃ t, runSteps 2 s = .next t ∧ (t.dataA, t.dataB) = f s.sTable (s.dataA, s.dataB) ∧ Ended t .ok .none false
      ∧ SameKey s t ∧ SameTable s t ∧ SameOut s t ∧ t.inlen = s.inlen ∧ t.schedule = rest := by
  obtain ⟨u, hu, hexec⟩ := step_issue hb hs
  rw [hi ((s.accept (encode i)).advance rest) hv] at hexec
  exact ⟨_, (runSteps_succ hu 1).trans (runSteps_one hexec), rfl, ended_succeed _ _ _, ⟨rfl, rfl⟩, ⟨rfl, rfl⟩,
    ⟨rfl, fun _ => rfl⟩, rfl, rfl⟩

/-- Two block commands, of which the second undoes the first. -/
theorem IsBlockCommand.run_inverse {i j : Instr} {f g : RoundKeys → Word × Word → Word × Word}
    (hi : IsBlockCommand i f) (hj : IsBlockCommand j g) (hgf : ∀ S ab, g S (f S ab) = ab) {s : State}
    {rest : List Event} (hb : s.busy = false) (hv : s.sValid = true)
    (hs : s.schedule = [issue (.named i), .engine, issue (.named j), .engine] ++ rest) :
    ∃ t, runSteps 4 s = .next t ∧ t.dataA = s.dataA ∧ t.dataB = s.dataB ∧ Ended t .ok .none false
      ∧ SameKey s t ∧ SameTable s t ∧ SameOut s t ∧ t.inlen = s.inlen ∧ t.schedule = rest := by
  obtain ⟨u, hu, hdata, ⟨-, hbusy, -⟩, hkey, htable, hout, hinlen, hsched⟩ := hi.run hb hv hs
  obtain ⟨t, ht, hdata', hended, hkey', htable', hout', hinlen', hsched'⟩ :=
    hj.run hbusy (htable.2.trans hv) hsched
  rw [hdata, htable.1, hgf, Prod.mk.injEq] at hdata'
  exact ⟨t, (runSteps_add hu 2).trans ht, hdata'.1, hdata'.2, hended, ⟨hkey'.1.trans hkey.1, hkey'.2.trans hkey.2⟩,
    ⟨htable'.1.trans htable.1, htable'.2.trans htable.2⟩,
    ⟨hout'.1.trans hout.1, fun a => (hout'.2 a).trans (hout.2 a)⟩, hinlen'.trans hinlen, hsched'⟩

/-- Settles O31, by the two inverse laws of the block functions. -/
theorem encbAndDecbRestoreTheBlock : Obligations.EncbAndDecbRestoreTheBlock := by
  intro s first second rest hb hv hi hs
  simp only [List.mem_cons, Prod.mk.injEq, List.not_mem_nil, or_false] at hi
  rcases hi with ⟨rfl, rfl⟩ | ⟨rfl, rfl⟩
  · exact isBlockCommand_encb.run_inverse isBlockCommand_decb decBlock_encBlock hb hv hs
  · exact isBlockCommand_decb.run_inverse isBlockCommand_encb encBlock_decBlock hb hv hs

/-! ### Keys that are equal after normalization (R107) -/

theorem keyNormalize_congr {b b' : List Byte} (h : ∀ i, i < 16 → b.getD i 0 = b'.getD i 0) :
    keyNormalize b = keyNormalize b' := by
  refine Vector.ext fun i hi => ?_
  rw [keyNormalize_getElem b hi, keyNormalize_getElem b' hi, h i hi]

/-- Past its end a key string reads as 0 already. -/
theorem getD_append_replicate_zero (b : List Byte) (n i : Nat) : (b ++ List.replicate n 0).getD i 0 = b.getD i 0 := by
  rcases Nat.lt_or_ge i b.length with hi | hi
  · exact List.getD_append _ _ _ _ hi
  · rw [List.getD_append_right _ _ _ _ hi, List.getD_eq_getElem?_getD,
      List.getElem?_getD_replicate_default_eq, List.getD_eq_default _ _ hi]

/-- Settles O35. -/
theorem keysEqualAfterNormalizationGiveTheSameTable : Obligations.KeysEqualAfterNormalizationGiveTheSameTable := by
  refine fun p q b b' h => ⟨congrArg _ (keyNormalize_congr h), fun n => congrArg _ (keyNormalize_congr fun i _ => ?_)⟩
  exact getD_append_replicate_zero b n i

/-! ### The blocks of a byte string (R141, R142, R149) -/

/-- The words of block `n` of a byte string. -/
def blockAt (order : WordOrder) (x : List Byte) (n : Nat) : Word × Word :=
  blockWords order (x.getD (8 * n) 0) (x.getD (8 * n + 1) 0) (x.getD (8 * n + 2) 0) (x.getD (8 * n + 3) 0)
    (x.getD (8 * n + 4) 0) (x.getD (8 * n + 5) 0) (x.getD (8 * n + 6) 0) (x.getD (8 * n + 7) 0)

theorem blockAt_congr (order : WordOrder) {x y : List Byte} {n : Nat} (h : ∀ a, a / 8 = n → x.getD a 0 = y.getD a 0) :
    blockAt order x n = blockAt order y n := by
  simp only [blockAt]
  rw [h (8 * n) (by omega), h (8 * n + 1) (by omega), h (8 * n + 2) (by omega), h (8 * n + 3) (by omega),
    h (8 * n + 4) (by omega), h (8 * n + 5) (by omega), h (8 * n + 6) (by omega), h (8 * n + 7) (by omega)]

/-- Byte `a` of a transformed string is byte `a % 8` of the block that `f` gives for block `a / 8`. -/
theorem mapBlocks_getD (order : WordOrder) (f : Word × Word → Word × Word) :
    ∀ (x : List Byte) (a : Nat), a < x.length / 8 * 8 →
      (mapBlocks order f x).getD a 0 = (blockBytes order (f (blockAt order x (a / 8)))).getD (a % 8) 0
  | b0 :: b1 :: b2 :: b3 :: b4 :: b5 :: b6 :: b7 :: rest, a, h => by
    rw [mapBlocks]
    rcases Nat.lt_or_ge a 8 with ha | ha
    · rw [List.getD_append _ _ _ _ (by simpa using ha), Nat.div_eq_of_lt ha, Nat.mod_eq_of_lt ha]
      rfl
    · obtain ⟨a, rfl⟩ := Nat.exists_eq_add_of_le' ha
      have hrest : a < rest.length / 8 * 8 := by
        simp only [List.length_cons] at h
        omega
      rw [List.getD_append_right _ _ _ _ (by simp), blockBytes_length, Nat.add_sub_cancel,
        mapBlocks_getD order f rest a hrest, Nat.add_div_right a (by decide), Nat.add_mod_right]
      rfl
  | [], _, h | [_], _, h | [_, _], _, h | [_, _, _], _, h | [_, _, _, _], _, h | [_, _, _, _, _], _, h
  | [_, _, _, _, _, _], _, h | [_, _, _, _, _, _, _], _, h => by simp at h

/-- Settles O40: a byte of the result is a function of its own block. -/
theorem blocksAreIndependent : Obligations.BlocksAreIndependent := by
  intro order S c c' k hlen _ h
  have hlen' : (decBytes order S c).length = (decBytes order S c').length := by
    rw [decBytes, decBytes, mapBlocks_length, mapBlocks_length, hlen]
  refine ⟨hlen', fun a ha => ?_⟩
  rcases Nat.lt_or_ge a (c.length / 8 * 8) with hin | hout
  · have hblock : blockAt order c (a / 8) = blockAt order c' (a / 8) :=
      blockAt_congr order fun a' ha' => h a' (ha' ▸ ha)
    rw [decBytes, decBytes, mapBlocks_getD _ _ _ _ hin, mapBlocks_getD _ _ _ _ (hlen ▸ hin), hblock]
  · rw [← mapBlocks_length order (decBlock S), ← decBytes] at hout
    rw [List.getD_eq_default _ _ hout, List.getD_eq_default _ _ (hlen' ▸ hout)]

/-! ### DecBytes after EncBytes -/

/-- A block written out is read back as its words (R123). -/
theorem mapBlocks_blockBytes_append (order : WordOrder) (f : Word × Word → Word × Word) (ab : Word × Word)
    (rest : List Byte) :
    mapBlocks order f (blockBytes order ab ++ rest) = blockBytes order (f ab) ++ mapBlocks order f rest := by
  obtain ⟨b0, b1, b2, b3, b4, b5, b6, b7, hbytes, hwords⟩ := wordsAndBytesAreInverse.1 order ab
  rw [hbytes, ← hwords]
  rfl

/-- R148: on whole blocks, decryption gives the bytes back. -/
theorem decBytes_encBytes (order : WordOrder) (S : RoundKeys) :
    ∀ x : List Byte, x.length % 8 = 0 → decBytes order S (encBytes order S x) = x
  | b0 :: b1 :: b2 :: b3 :: b4 :: b5 :: b6 :: b7 :: rest, h => by
    have ih := decBytes_encBytes order S rest (by simp only [List.length_cons] at h; omega)
    rw [decBytes, encBytes] at ih
    rw [decBytes, encBytes, mapBlocks, mapBlocks_blockBytes_append, decBlock_encBlock, ih]
    exact congrArg (· ++ rest) ((wordsAndBytesAreInverse.2 b0 b1 b2 b3 b4 b5 b6 b7).1 order)
  | [], _ => rfl
  | [_], h | [_, _], h | [_, _, _], h | [_, _, _, _], h | [_, _, _, _, _], h | [_, _, _, _, _, _], h
  | [_, _, _, _, _, _, _], h => by simp at h

/-! ### The lengths of ENC's and DEC's outputs (R146, R147) -/

theorem pad_length_eq (m : List Byte) : (pad m).length = 8 * ((m.length + 7) / 8) := by
  rw [pad_length]
  omega

/-- The ciphertext of ENC: the encrypted bytes before they are encoded (R145). -/
def State.cipherText (s : State) : List Byte :=
  encBytes s.cfg.blockOrder (keySchedule s.cfg.p s.cfg.q s.operands.key) (pad s.message)

theorem encText_eq (s : State) (f : OutFmt) : s.encText f = encodeOutput f s.cipherText := rfl

theorem cipherText_length (s : State) : s.cipherText.length = 8 * ((s.inputLen + 7) / 8) := by
  rw [State.cipherText, encBytes, mapBlocks_length, pad_length_eq, message_length, State.inputLen]
  omega

theorem cipherText_length_mod (s : State) : s.cipherText.length % 8 = 0 := by
  rw [cipherText_length, Nat.mul_mod_right]

theorem decSource_length_le (s : State) (auto : Bool) : (s.decSource auto).2.length ≤ s.inputLen := by
  have hmessage : s.message.length = s.inputLen := message_length s
  rw [← hmessage]
  cases auto with
  | false => exact le_rfl
  | true => exact decodeInput_length_le _ _

theorem decText_length_le (s : State) (auto nostrip : Bool) :
    (s.decText auto nostrip).length ≤ (s.decSource auto).2.length := by
  rw [← decOutput_decSource]
  exact decOutput_length_le s nostrip _

/-- Settles O38: the ciphertext has `8 * n` bytes, and the length of each text is a function of that. -/
theorem encOutputLengths : Obligations.EncOutputLengths := by
  intro s n
  have hc : s.cipherText.length = 8 * n := cipherText_length s
  refine ⟨hc, ?_, ?_, ?_, fun i f t hi h herr => ?_, fun auto nostrip => ?_⟩
  · rw [encText_eq, encodeOutput, hexEncode_length, hc, if_neg Bool.false_ne_true]
    omega
  · rw [encText_eq, encodeOutput, hexEncode_length, hc, if_pos rfl]
    omega
  · rw [encText_eq, encodeOutput, b64Encode_length, hc]
  · rw [exec_eq_encMessage s hi] at h
    rw [eq_of_encMessage_of_err_ok h herr, State.succeed_outlen, State.commitOut_outlen]
  · have htext := decText_length_le s auto nostrip
    have hsource := decSource_length_le s auto
    exact ⟨htext, hsource, fun hin => htext.trans (hsource.trans hin)⟩

end Sys2Proof.Machine
end

section
/-! PROOF. The STATUS word (10_state.md R31, R33) bit by bit, and the state after power-on reset
(70_reset_and_hazards.md R240), at the machine's start and later. -/

namespace Sys2Proof.Machine

/-! ### STATUS (R31) -/

theorem statusWord_bits (s : State) :
    s.statusWord.getLsbD 0 = s.busy ∧ s.statusWord.getLsbD 1 = s.done ∧ s.statusWord.getLsbD 2 = s.keyValid
      ∧ s.statusWord.getLsbD 3 = s.sValid ∧ s.statusWord.getLsbD 4 = s.textOk
      ∧ s.statusWord.getLsbD 5 = s.accErr := by
  simp only [State.statusWord, BitVec.getLsbD_append, BitVec.getLsbD_ofBool]
  exact ⟨rfl, rfl, rfl, rfl, rfl, rfl⟩

theorem statusWord_codes (s : State) :
    s.statusWord.extractLsb' 6 2 = 0 ∧ s.statusWord.extractLsb' 8 4 = s.err.code
      ∧ s.statusWord.extractLsb' 12 2 = s.fmt.code ∧ s.statusWord.extractLsb' 14 18 = 0 := by
  simp (disch := decide) only [State.statusWord, BitVec.extractLsb'_append_eq_of_le,
    BitVec.extractLsb'_append_eq_of_add_le, Nat.reduceSub, BitVec.extractLsb'_eq_self, and_self]

/-- Settles O46: the fields as `statusWord` packs them, and the codes by their definitions. -/
theorem statusWordFields : Obligations.StatusWordFields := by
  refine ⟨fun s => ?_, rfl, rfl, rfl, rfl, rfl, rfl, rfl, rfl, rfl, rfl⟩
  obtain ⟨hbusy, hdone, hkey, htable, htext, hacc⟩ := statusWord_bits s
  exact ⟨hbusy, hdone, hkey, htable, htext, hacc, statusWord_codes s⟩

/-! ### Power-on reset (R240) -/

/-- A state as power-on number `cycle` leaves it; `s` gives what the reset does not touch. -/
def poweredOn (s : State) (cycle : Nat) : State :=
  { s.softReset with sTable := powerOnTable cycle, inBuf := [], outBuf := [], powerCycle := cycle }

theorem reset_eq_poweredOn : State.reset = poweredOn State.reset 0 := rfl

theorem powerOnReset_eq_poweredOn (s : State) : s.powerOnReset = poweredOn s (s.powerCycle + 1) := rfl

theorem powerOnTable_getElem (cycle : Nat) (i : Fin 26) : (powerOnTable cycle)[i] = Config.powerOnWord cycle i := by
  rw [Fin.getElem_fin, powerOnTable, Vector.getElem_ofFn]

theorem poweredOn_statusWord (s : State) (cycle : Nat) : (poweredOn s cycle).statusWord = 0 := by
  simp [State.statusWord, State.busy, poweredOn, Fmt.code, ErrCode.code]

theorem poweredOn_ctrlWord (s : State) (cycle : Nat) : (poweredOn s cycle).ctrlWord = 0 := by
  simp [State.ctrlWord, poweredOn]

theorem poweredOn_values (s : State) (cycle : Nat) {t : State} (ht : t = poweredOn s cycle) :
    t.pending = none ∧ t.statusWord = 0 ∧ t.ctrlWord = 0 ∧ t.irq = false ∧ t.dataA = 0 ∧ t.dataB = 0
      ∧ (∀ i : Fin 16, t.key[i] = 0) ∧ t.keyValid = false ∧ t.sValid = false ∧ t.inlen = 0 ∧ t.outlen = 0
      ∧ (∀ i : Fin 26, t.sTable[i] = Config.powerOnWord t.powerCycle i)
      ∧ (∀ a, t.inByte a = Config.powerOnByte .inBuf t.powerCycle a)
      ∧ ∀ a, t.outByte a = Config.powerOnByte .outBuf t.powerCycle a := by
  subst ht
  exact ⟨rfl, poweredOn_statusWord s cycle, poweredOn_ctrlWord s cycle, irq_eq_false_of_done rfl, rfl, rfl,
    s.softReset_key_getElem, rfl, rfl, rfl, rfl, powerOnTable_getElem cycle, fun _ => rfl, fun _ => rfl⟩

/-- Settles O54: both states are `poweredOn`, the first one and the one the step answers. -/
theorem powerOnReset : Obligations.PowerOnReset := by
  refine ⟨?_, fun s rest hs => ⟨_, step_powerOn hs, rfl, rfl, rfl⟩⟩
  rintro t (rfl | ⟨s, rest, hs, ht⟩)
  · exact poweredOn_values State.reset 0 reset_eq_poweredOn
  · rw [step_powerOn hs, powerOnReset_eq_poweredOn] at ht
    exact poweredOn_values (s.advance rest) _ (Host.Outcome.next.inj ht).symm

end Sys2Proof.Machine
end

section
/-! PROOF. The hex text (43_format_helpers.md R170 to R174) against the spec's lists of characters: which bytes are
whitespace and digits, what HexEncode writes, and what Strip and HexDecode make of it. -/

namespace Sys2Proof.Machine

/-! ### The lists of characters -/

/-- The bytes in a row are those from the first to the last of its values. -/
theorem mem_byteRow {first n : Nat} (h : first + n ≤ 256) (v : Byte) :
    v ∈ byteRow first n ↔ first ≤ v.toNat ∧ v.toNat < first + n := by
  simp only [byteRow, List.mem_map, List.mem_range'_1]
  constructor
  · rintro ⟨a, ha, rfl⟩
    rwa [BitVec.toNat_ofNat, Nat.mod_eq_of_lt (by omega)]
  · exact fun hv => ⟨v.toNat, hv, BitVec.ofNat_toNat _ _⟩

theorem isSpace_eq_mem (v : Byte) : isSpace v = decide (v ∈ whitespaceBytes) := by
  rw [Bool.eq_iff_iff]
  simp [isSpace, whitespaceBytes, or_assoc]

theorem strip_eq_filter (s : List Byte) : strip s = s.filter fun v => decide (v ∉ whitespaceBytes) := by
  simp [strip, isSpace_eq_mem]

theorem mem_hexDigits_iff (v : Byte) :
    v ∈ lowerHexDigits ∨ v ∈ upperHexDigits ↔
      (0x30 ≤ v.toNat ∧ v.toNat ≤ 0x39) ∨ (0x61 ≤ v.toNat ∧ v.toNat ≤ 0x66) ∨ (0x41 ≤ v.toNat ∧ v.toNat ≤ 0x46) := by
  simp only [lowerHexDigits, upperHexDigits, List.mem_append, mem_byteRow (by decide : 0x30 + 10 ≤ 256),
    mem_byteRow (by decide : 0x61 + 6 ≤ 256), mem_byteRow (by decide : 0x41 + 6 ≤ 256)]
  omega

/-- R171. -/
theorem hexVal_isSome_iff (v : Byte) : (hexVal v).isSome = true ↔ v ∈ lowerHexDigits ∨ v ∈ upperHexDigits := by
  rw [mem_hexDigits_iff, hexVal]
  split
  next h => simp [h]
  next h1 =>
    split
    next h => simp [h]
    next h2 =>
      split
      next h => simp [h]
      next h3 => simp [h1, h2, h3]

theorem isHex_iff (t : List Byte) :
    isHex t = true ↔ 1 ≤ t.length ∧ t.length % 2 = 0 ∧ ∀ v ∈ t, v ∈ lowerHexDigits ∨ v ∈ upperHexDigits := by
  simp [isHex, hexVal_isSome_iff, and_assoc]

/-! ### The digits of a byte (R171, R172) -/

theorem hexDigit_eq_getD (d : BitVec 4) : hexDigit d = lowerHexDigits.getD d.toNat 0 := by
  revert d
  decide

theorem isSpace_hexDigit (d : BitVec 4) : isSpace (hexDigit d) = false := by
  revert d
  decide

theorem hexVal_hexDigit (d : BitVec 4) : hexVal (hexDigit d) = some d := by
  revert d
  decide

/-- The uppercase form of a lowercase digit. -/
def upperDigit (v : Byte) : Byte := if 0x61 ≤ v.toNat then v - 0x20 else v

theorem hexVal_upperDigit_hexDigit (d : BitVec 4) : hexVal (upperDigit (hexDigit d)) = some d := by
  revert d
  decide

theorem hexPair_eq (v : Byte) :
    hexPair v = [lowerHexDigits.getD (v.toNat / 16) 0, lowerHexDigits.getD (v.toNat % 16) 0] := by
  have hhigh : (v.extractLsb' 4 4).toNat = v.toNat / 16 := by
    rw [BitVec.extractLsb'_toNat, Nat.shiftRight_eq_div_pow]
    omega
  have hlow : (v.extractLsb' 0 4).toNat = v.toNat % 16 := by
    rw [BitVec.extractLsb'_toNat, Nat.shiftRight_zero]
  rw [hexPair, hexDigit_eq_getD, hexDigit_eq_getD, hhigh, hlow]

/-! ### HexEncode (R172) -/

theorem hexEncode_cons_cons (sep : Bool) (v w : Byte) (rest : List Byte) :
    hexEncode sep (v :: w :: rest) = hexPair v ++ (if sep then [0x20] else []) ++ hexEncode sep (w :: rest) := rfl

theorem hexEncode_false : ∀ b : List Byte, hexEncode false b = b.flatMap hexPair
  | [] => rfl
  | [v] => by simp [hexEncode]
  | v :: w :: rest => by
    have ih := hexEncode_false (w :: rest)
    simp [hexEncode_cons_cons, ih]

theorem hexEncode_true : ∀ b : List Byte, hexEncode true b = [0x20].intercalate (b.map hexPair)
  | [] => rfl
  | [v] => by simp [hexEncode]
  | v :: w :: rest => by
    have ih := hexEncode_true (w :: rest)
    simp [hexEncode_cons_cons, ih, List.intercalate_cons_cons]

/-! ### Strip of a hex text -/

theorem strip_append (s t : List Byte) : strip (s ++ t) = strip s ++ strip t := List.filter_append s t

theorem strip_eq_self_of_forall {s : List Byte} (h : ∀ v ∈ s, isSpace v = false) : strip s = s := by
  rw [strip, List.filter_eq_self]
  simpa using h

theorem strip_hexPair (v : Byte) : strip (hexPair v) = hexPair v :=
  strip_eq_self_of_forall (by simp [hexPair, isSpace_hexDigit])

/-- Only the separators go. -/
theorem strip_hexEncode (sep : Bool) : ∀ b : List Byte, strip (hexEncode sep b) = b.flatMap hexPair
  | [] => rfl
  | [v] => by simp [hexEncode, strip_hexPair]
  | v :: w :: rest => by
    have ih := strip_hexEncode sep (w :: rest)
    have hsep : strip (if sep then [0x20] else []) = [] := by cases sep <;> rfl
    rw [hexEncode_cons_cons, strip_append, strip_append, hsep, strip_hexPair, ih, List.append_nil]
    rfl

/-! ### Decoding a hex text (R174) -/

theorem hexDecode_map_flatMap_hexPair {f : Byte → Byte} (hf : ∀ d, hexVal (f (hexDigit d)) = some d) (b : List Byte) :
    hexDecode ((b.flatMap hexPair).map f) = b := by
  induction b with
  | nil => rfl
  | cons v rest ih =>
    simp only [List.flatMap_cons, hexPair, List.cons_append, List.nil_append, List.map_cons, hexDecode, hf, ih,
      Option.getD_some]
    exact congrArg (· :: rest) (BitVec.extractLsb'_append_extractLsb' (w := 4) (len := 4))

theorem hexDecode_flatMap_hexPair (b : List Byte) : hexDecode (b.flatMap hexPair) = b := by
  have h := hexDecode_map_flatMap_hexPair (f := id) hexVal_hexDigit b
  rwa [List.map_id] at h

theorem isHex_flatMap_hexPair {b : List Byte} (h : b ≠ []) : isHex (b.flatMap hexPair) = true := by
  have hlen := hexEncode_length false b
  rw [hexEncode_false, if_neg Bool.false_ne_true] at hlen
  have hpos := List.length_pos_iff.mpr h
  refine (isHex_iff _).mpr ⟨by omega, by omega, fun v hv => ?_⟩
  obtain ⟨w, -, hw⟩ := List.mem_flatMap.mp hv
  rw [← hexVal_isSome_iff]
  simp only [hexPair, List.mem_cons, List.not_mem_nil, or_false] at hw
  rcases hw with rfl | rfl <;> rw [hexVal_hexDigit] <;> rfl

/-- Settles O42: the tables by evaluation, the text as two digits for each byte, with or without separators. -/
theorem hexTextRoundTrip : Obligations.HexTextRoundTrip := by
  refine ⟨strip_eq_filter, by decide, fun v hlower hupper => ?_, isHex_iff, fun b => ?_, fun sep b => ?_⟩
  · rw [← Option.not_isSome_iff_eq_none, hexVal_isSome_iff]
    exact not_or.mpr ⟨hlower, hupper⟩
  · intro pairs
    have hpairs : pairs = b.map hexPair := List.map_congr_left fun v _ => (hexPair_eq v).symm
    rw [hpairs]
    exact ⟨(hexEncode_false b).trans List.flatMap_def, hexEncode_true b⟩
  · rw [strip_hexEncode]
    exact ⟨hexEncode_length sep b, isHex_flatMap_hexPair, hexDecode_flatMap_hexPair b,
      hexDecode_map_flatMap_hexPair hexVal_upperDigit_hexDigit b⟩

end Sys2Proof.Machine
end

section
/-! PROOF. The Base64 text (43_format_helpers.md R175 to R178, R185): the characters by value, groups of 24 bits and
their four characters, the body and the padding of an encoding; which texts are both hex and Base64. -/

namespace Sys2Proof.Machine

/-! ### The characters (R175) -/

theorem mem_b64Alphabet_iff (c : Byte) :
    c ∈ b64Alphabet ↔ (0x41 ≤ c.toNat ∧ c.toNat ≤ 0x5A) ∨ (0x61 ≤ c.toNat ∧ c.toNat ≤ 0x7A)
      ∨ (0x30 ≤ c.toNat ∧ c.toNat ≤ 0x39) ∨ c = 0x2B ∨ c = 0x2F := by
  simp only [b64Alphabet, List.mem_append, mem_byteRow (by decide : 0x41 + 26 ≤ 256),
    mem_byteRow (by decide : 0x61 + 26 ≤ 256), mem_byteRow (by decide : 0x30 + 10 ≤ 256), List.mem_cons,
    List.not_mem_nil, or_false, Nat.lt_succ_iff, Nat.reduceAdd, or_assoc]

theorem b64Val_isSome_iff (c : Byte) : (b64Val c).isSome = true ↔ c ∈ b64Alphabet := by
  rw [mem_b64Alphabet_iff, b64Val]
  split
  next h => simp [h]
  next h1 =>
    split
    next h => simp [h]
    next h2 =>
      split
      next h => simp [h]
      next h3 =>
        split
        next h => simp [h]
        next h4 =>
          split
          next h => simp [h]
          next h5 => simpa [h1, h2, h3] using And.intro h4 h5

theorem b64Char_eq_getD (v : BitVec 6) : b64Char v = b64Alphabet.getD v.toNat 0 := by
  revert v
  decide

theorem b64Val_b64Char (v : BitVec 6) : b64Val (b64Char v) = some v := by
  revert v
  decide

theorem isSpace_b64Char (v : BitVec 6) : isSpace (b64Char v) = false := by
  revert v
  decide

/-- Every byte with a value is the character of that value. -/
theorem b64Char_eq_of_b64Val {c : Byte} {v : BitVec 6} (h : b64Val c = some v) : b64Char v = c := by
  have hmem : c ∈ b64Alphabet := (b64Val_isSome_iff c).mp (by rw [h]; rfl)
  obtain ⟨n, hn, rfl⟩ := List.mem_iff_getElem.mp hmem
  have hlen : n < 64 := hn
  have hchar : b64Char (BitVec.ofNat 6 n) = b64Alphabet[n]'hn := by
    rw [b64Char_eq_getD, BitVec.toNat_ofNat, Nat.mod_eq_of_lt hlen, List.getElem_eq_getD 0]
  rw [← hchar, b64Val_b64Char] at h
  rw [← Option.some.inj h, hchar]

theorem b64Val_padChar : b64Val padChar = none := by decide

theorem ne_padChar_of_isSome {c : Byte} (h : (b64Val c).isSome = true) : c ≠ padChar := by
  rintro rfl
  rw [b64Val_padChar] at h
  cases h

/-! ### Groups of 24 bits (R176, R177) -/

/-- The four 6-bit values of a group. -/
theorem extractLsb'_append_sextets (n : BitVec 24) :
    n.extractLsb' 18 6 ++ n.extractLsb' 12 6 ++ n.extractLsb' 6 6 ++ n.extractLsb' 0 6 = n := by
  rw [BitVec.extractLsb'_append_extractLsb'_eq_extractLsb' (by decide : 18 = 12 + 6),
    BitVec.extractLsb'_append_extractLsb'_eq_extractLsb' (by decide : 12 = 6 + 6),
    BitVec.extractLsb'_append_extractLsb'_eq_extractLsb' (by decide : 6 = 0 + 6)]
  exact BitVec.extractLsb'_eq_self

/-- The three bytes of a group. -/
theorem extractLsb'_append_bytes (n : BitVec 24) :
    n.extractLsb' 16 8 ++ n.extractLsb' 8 8 ++ n.extractLsb' 0 8 = n := by
  rw [BitVec.extractLsb'_append_extractLsb'_eq_extractLsb' (by decide : 16 = 8 + 8),
    BitVec.extractLsb'_append_extractLsb'_eq_extractLsb' (by decide : 8 = 0 + 8)]
  exact BitVec.extractLsb'_eq_self

theorem append_bytes_extract (b0 b1 b2 : Byte) :
    (b0 ++ b1 ++ b2).extractLsb' 16 8 = b0 ∧ (b0 ++ b1 ++ b2).extractLsb' 8 8 = b1
      ∧ (b0 ++ b1 ++ b2).extractLsb' 0 8 = b2 := by
  simp (disch := decide) only [BitVec.extractLsb'_append_eq_of_le, BitVec.extractLsb'_append_eq_of_add_le,
    Nat.reduceSub, BitVec.extractLsb'_eq_self, and_self]

theorem append_sextets_extract (v0 v1 v2 v3 : BitVec 6) :
    (v0 ++ v1 ++ v2 ++ v3).extractLsb' 18 6 = v0 ∧ (v0 ++ v1 ++ v2 ++ v3).extractLsb' 12 6 = v1
      ∧ (v0 ++ v1 ++ v2 ++ v3).extractLsb' 6 6 = v2 ∧ (v0 ++ v1 ++ v2 ++ v3).extractLsb' 0 6 = v3 := by
  simp (disch := decide) only [BitVec.extractLsb'_append_eq_of_le, BitVec.extractLsb'_append_eq_of_add_le,
    Nat.reduceSub, BitVec.extractLsb'_eq_self, and_self]

/-- The bits of a group's four characters are the group. -/
theorem b64Bits_b64Quad (n : BitVec 24) :
    b64Bits (b64Quad n).1 (b64Quad n).2.1 (b64Quad n).2.2.1 (b64Quad n).2.2.2 = n := by
  simp only [b64Bits, b64Quad, b64Val_b64Char, Option.getD_some]
  exact extractLsb'_append_sextets n

/-- The characters of a group that four characters give are these characters. -/
theorem b64Quad_b64Bits {c0 c1 c2 c3 : Byte} (h0 : (b64Val c0).isSome = true) (h1 : (b64Val c1).isSome = true)
    (h2 : (b64Val c2).isSome = true) (h3 : (b64Val c3).isSome = true) :
    b64Quad (b64Bits c0 c1 c2 c3) = (c0, c1, c2, c3) := by
  obtain ⟨v0, h0⟩ := Option.isSome_iff_exists.mp h0
  obtain ⟨v1, h1⟩ := Option.isSome_iff_exists.mp h1
  obtain ⟨v2, h2⟩ := Option.isSome_iff_exists.mp h2
  obtain ⟨v3, h3⟩ := Option.isSome_iff_exists.mp h3
  obtain ⟨e0, e1, e2, e3⟩ := append_sextets_extract v0 v1 v2 v3
  simp only [b64Quad, b64Bits, h0, h1, h2, h3, Option.getD_some]
  rw [e0, e1, e2, e3, b64Char_eq_of_b64Val h0, b64Char_eq_of_b64Val h1, b64Char_eq_of_b64Val h2,
    b64Char_eq_of_b64Val h3]

/-- The character of digit `k` of `n` to the base 64. -/
def b64DigitChar (n k : Nat) : Byte := b64Alphabet.getD (n / 64 ^ k % 64) 0

theorem b64Char_extractLsb' (n : BitVec 24) (k : Nat) : b64Char (n.extractLsb' (6 * k) 6) = b64DigitChar n.toNat k := by
  rw [b64Char_eq_getD, BitVec.extractLsb'_toNat, Nat.shiftRight_eq_div_pow, Nat.pow_mul]
  rfl

theorem b64Quad_eq (n : BitVec 24) :
    b64Quad n = (b64DigitChar n.toNat 3, b64DigitChar n.toNat 2, b64DigitChar n.toNat 1, b64DigitChar n.toNat 0) := by
  rw [← b64Char_extractLsb', ← b64Char_extractLsb', ← b64Char_extractLsb', ← b64Char_extractLsb']
  rfl

theorem b64Quad_append (b0 b1 b2 : Byte) :
    b64Quad (b0 ++ b1 ++ b2 : BitVec (8 + 8 + 8)) =
      (b64DigitChar (b0.toNat * 65536 + b1.toNat * 256 + b2.toNat) 3,
        b64DigitChar (b0.toNat * 65536 + b1.toNat * 256 + b2.toNat) 2,
        b64DigitChar (b0.toNat * 65536 + b1.toNat * 256 + b2.toNat) 1,
        b64DigitChar (b0.toNat * 65536 + b1.toNat * 256 + b2.toNat) 0) := by
  have hn : (b0 ++ b1 ++ b2).toNat = b0.toNat * 65536 + b1.toNat * 256 + b2.toNat := by
    simp only [toNat_append_byte]
    omega
  rw [b64Quad_eq, hn]

/-! ### B64Encode group by group (R176) -/

section
variable (b0 b1 b2 : Byte) (rest : List Byte)

theorem b64Encode_three :
    b64Encode (b0 :: b1 :: b2 :: rest) =
      (b64Quad (b0 ++ b1 ++ b2 : BitVec (8 + 8 + 8))).1 :: (b64Quad (b0 ++ b1 ++ b2 : BitVec (8 + 8 + 8))).2.1
        :: (b64Quad (b0 ++ b1 ++ b2 : BitVec (8 + 8 + 8))).2.2.1
        :: (b64Quad (b0 ++ b1 ++ b2 : BitVec (8 + 8 + 8))).2.2.2 :: b64Encode rest := rfl

theorem b64Encode_two :
    b64Encode [b0, b1] =
      [(b64Quad (b0 ++ b1 ++ (0 : Byte) : BitVec (8 + 8 + 8))).1,
        (b64Quad (b0 ++ b1 ++ (0 : Byte) : BitVec (8 + 8 + 8))).2.1,
        (b64Quad (b0 ++ b1 ++ (0 : Byte) : BitVec (8 + 8 + 8))).2.2.1, padChar] := rfl

theorem b64Encode_one :
    b64Encode [b0] =
      [(b64Quad (b0 ++ (0 : Byte) ++ (0 : Byte) : BitVec (8 + 8 + 8))).1,
        (b64Quad (b0 ++ (0 : Byte) ++ (0 : Byte) : BitVec (8 + 8 + 8))).2.1, padChar, padChar] := rfl

/-- The fourth character of a group whose third byte is 0. -/
theorem b64Quad_fourth_of_zero : (b64Quad (b0 ++ b1 ++ (0 : Byte) : BitVec (8 + 8 + 8))).2.2.2 = 0x41 := by
  have h : (b0 ++ b1 ++ (0 : Byte)).extractLsb' 0 6 = 0 := by
    rw [BitVec.extractLsb'_append_eq_of_add_le (by decide)]
    rfl
  exact congrArg b64Char h

/-- The third character of a group whose second and third bytes are 0. -/
theorem b64Quad_third_of_zero : (b64Quad (b0 ++ (0 : Byte) ++ (0 : Byte) : BitVec (8 + 8 + 8))).2.2.1 = 0x41 := by
  have h : (b0 ++ (0 : Byte) ++ (0 : Byte)).extractLsb' 6 6 = 0 := by
    rw [BitVec.append_assoc, BitVec.extractLsb'_cast, BitVec.extractLsb'_append_eq_of_add_le (by decide)]
    rfl
  exact congrArg b64Char h

end

/-! ### Body and padding (R177) -/

theorem isSome_b64Quad (n : BitVec 24) :
    (b64Val (b64Quad n).1).isSome = true ∧ (b64Val (b64Quad n).2.1).isSome = true
      ∧ (b64Val (b64Quad n).2.2.1).isSome = true ∧ (b64Val (b64Quad n).2.2.2).isSome = true := by
  simp [b64Quad, b64Val_b64Char]

/-- A padding that R177 (b) allows. -/
def IsPadding (p : List Byte) : Prop := p = [] ∨ p = [padChar] ∨ p = [padChar, padChar]

theorem IsPadding.eq_padChar {p : List Byte} (hp : IsPadding p) {c : Byte} (hc : c ∈ p) : c = padChar := by
  rcases hp with rfl | rfl | rfl
  · cases hc
  · simpa using hc
  · simpa using hc

/-- An encoding is a body of characters with a value and a padding, and the body decodes to the bytes. -/
theorem exists_body_padding :
    ∀ b : List Byte, ∃ body p, b64Encode b = body ++ p ∧ (∀ c ∈ body, (b64Val c).isSome = true) ∧ IsPadding p
      ∧ b64DecodeBody body = b
  | [] => ⟨[], [], rfl, by simp, .inl rfl, rfl⟩
  | [b0] => by
    obtain ⟨h0, h1, -, -⟩ := isSome_b64Quad (b0 ++ (0 : Byte) ++ (0 : Byte))
    have hbits := b64Bits_b64Quad (b0 ++ (0 : Byte) ++ (0 : Byte))
    rw [b64Quad_fourth_of_zero, b64Quad_third_of_zero] at hbits
    refine ⟨[_, _], [padChar, padChar], b64Encode_one b0, by simpa using ⟨h0, h1⟩, .inr (.inr rfl), ?_⟩
    obtain ⟨e0, -, -⟩ := append_bytes_extract b0 0 0
    rw [b64DecodeBody, hbits, e0]
  | [b0, b1] => by
    obtain ⟨h0, h1, h2, -⟩ := isSome_b64Quad (b0 ++ b1 ++ (0 : Byte))
    have hbits := b64Bits_b64Quad (b0 ++ b1 ++ (0 : Byte))
    rw [b64Quad_fourth_of_zero] at hbits
    refine ⟨[_, _, _], [padChar], b64Encode_two b0 b1, by simpa using ⟨h0, h1, h2⟩, .inr (.inl rfl), ?_⟩
    obtain ⟨e0, e1, -⟩ := append_bytes_extract b0 b1 0
    simp only [b64DecodeBody, hbits, e0, e1]
  | b0 :: b1 :: b2 :: rest => by
    obtain ⟨body, p, henc, hbody, hp, hdec⟩ := exists_body_padding rest
    obtain ⟨h0, h1, h2, h3⟩ := isSome_b64Quad (b0 ++ b1 ++ b2)
    have hbits := b64Bits_b64Quad (b0 ++ b1 ++ b2)
    refine ⟨_ :: _ :: _ :: _ :: body, p, by rw [b64Encode_three, henc]; rfl, ?_, hp, ?_⟩
    · simp only [List.forall_mem_cons]
      exact ⟨h0, h1, h2, h3, hbody⟩
    · obtain ⟨e0, e1, e2⟩ := append_bytes_extract b0 b1 b2
      simp only [b64DecodeBody, hbits, e0, e1, e2, hdec]

section
variable {body p : List Byte} (hbody : ∀ c ∈ body, (b64Val c).isSome = true) (hp : IsPadding p)
include hbody hp

theorem b64Body_append : b64Body (body ++ p) = body := by
  have hne : ∀ c ∈ body, (c != padChar) = true := fun c hc => by simpa using ne_padChar_of_isSome (hbody c hc)
  rw [b64Body, List.takeWhile_append_of_pos hne]
  rcases hp with rfl | rfl | rfl <;> simp

theorem b64Pad_append : b64Pad (body ++ p) = p := by
  have hne : ∀ c ∈ body, (c != padChar) = true := fun c hc => by simpa using ne_padChar_of_isSome (hbody c hc)
  rw [b64Pad, List.dropWhile_append_of_pos hne]
  rcases hp with rfl | rfl | rfl <;> simp

end

/-- R177: B64Decode undoes B64Encode. -/
theorem b64Decode_b64Encode (b : List Byte) : b64Decode (b64Encode b) = b := by
  obtain ⟨body, p, henc, hbody, hp, hdec⟩ := exists_body_padding b
  rw [b64Decode, henc, b64Body_append hbody hp, hdec]

theorem b64Valid_iff_conditions (t : List Byte) :
    b64Valid t = true ↔ t.length % 4 = 0 ∧ IsPadding (b64Pad t) ∧ (∀ c ∈ b64Body t, (b64Val c).isSome = true)
      ∧ (b64Pad t = [] ∨ 4 ≤ t.length) ∧ b64Encode (b64Decode t) = t := by
  simp [b64Valid, IsPadding, and_assoc, or_assoc]

theorem b64Valid_b64Encode (b : List Byte) : b64Valid (b64Encode b) = true := by
  obtain ⟨body, p, henc, hbody, hp, -⟩ := exists_body_padding b
  have hlen := b64Encode_length b
  refine (b64Valid_iff_conditions _).mpr ⟨by omega, ?_, ?_, ?_, by rw [b64Decode_b64Encode]⟩
  · rwa [henc, b64Pad_append hbody hp]
  · rwa [henc, b64Body_append hbody hp]
  · cases b with
    | nil => exact .inl rfl
    | cons =>
      simp only [List.length_cons] at hlen
      right
      omega

/-- R177 (d): the valid texts are the encodings. -/
theorem b64Valid_iff_exists (t : List Byte) : b64Valid t = true ↔ ∃ b, b64Encode b = t := by
  constructor
  · intro h
    obtain ⟨-, -, -, -, hround⟩ := (b64Valid_iff_conditions t).mp h
    exact ⟨_, hround⟩
  · rintro ⟨b, rfl⟩
    exact b64Valid_b64Encode b

theorem isSpace_of_b64Val {c : Byte} (h : (b64Val c).isSome = true) : isSpace c = false := by
  obtain ⟨v, hv⟩ := Option.isSome_iff_exists.mp h
  rw [← b64Char_eq_of_b64Val hv, isSpace_b64Char]

/-- A Base64 text holds no whitespace. -/
theorem strip_b64Encode (b : List Byte) : strip (b64Encode b) = b64Encode b := by
  obtain ⟨body, p, henc, hbody, hp, -⟩ := exists_body_padding b
  refine strip_eq_self_of_forall fun v hv => ?_
  rw [henc, List.mem_append] at hv
  rcases hv with hv | hv
  · exact isSpace_of_b64Val (hbody v hv)
  · rw [hp.eq_padChar hv]
    decide

/-- Settles O43: the characters of a group are the digits of its 24 bits to the base 64. -/
theorem base64TextRoundTrip : Obligations.Base64TextRoundTrip := by
  refine ⟨by decide, fun c hc => ?_, fun b0 b1 b2 rest => ?_, fun b0 => ?_, fun b0 b1 => ?_, b64Valid_iff_exists,
    fun b => ⟨b64Encode_length b, strip_b64Encode b, b64Valid_b64Encode b, b64Decode_b64Encode b⟩⟩
  · rwa [← Option.not_isSome_iff_eq_none, b64Val_isSome_iff]
  · rw [b64Encode_three, b64Quad_append]
    rfl
  · rw [b64Encode_one, b64Quad_append]
    simp [b64DigitChar]
  · rw [b64Encode_two, b64Quad_append]
    simp [b64DigitChar]

end Sys2Proof.Machine
end

section
/-! PROOF. Detection (43_format_helpers.md R178, R185) and the round trip of ENC and DEC (42_message_transform.md
R148): every text of ENC is decoded as the ciphertext it encodes, unless it is Base64 and all hex digits. -/

namespace Sys2Proof.Machine

/-! ### Texts that are both hex and Base64 (R185) -/

/-- Every hex digit is a Base64 character too. -/
theorem isSome_b64Val_of_hexVal {v : Byte} (h : (hexVal v).isSome = true) : (b64Val v).isSome = true := by
  rw [hexVal_isSome_iff, mem_hexDigits_iff] at h
  rw [b64Val_isSome_iff, mem_b64Alphabet_iff]
  omega

theorem isSome_hexVal_of_isHex {t : List Byte} (h : isHex t = true) : ∀ v ∈ t, (hexVal v).isSome = true := by
  obtain ⟨-, -, hdigits⟩ := (isHex_iff t).mp h
  exact fun v hv => (hexVal_isSome_iff v).mpr (hdigits v hv)

/-- Characters without padding, in whole groups, are the encoding of what they decode to. -/
theorem b64Encode_b64DecodeBody :
    ∀ t : List Byte, t.length % 4 = 0 → (∀ c ∈ t, (b64Val c).isSome = true) → b64Encode (b64DecodeBody t) = t
  | c0 :: c1 :: c2 :: c3 :: rest, hlen, h => by
    simp only [List.forall_mem_cons] at h
    obtain ⟨h0, h1, h2, h3, hrest⟩ := h
    have ih := b64Encode_b64DecodeBody rest (by simp only [List.length_cons] at hlen; omega) hrest
    have hquad : b64Quad ((b64Bits c0 c1 c2 c3).extractLsb' 16 8 ++ (b64Bits c0 c1 c2 c3).extractLsb' 8 8
        ++ (b64Bits c0 c1 c2 c3).extractLsb' 0 8 : BitVec (8 + 8 + 8)) = (c0, c1, c2, c3) :=
      (congrArg b64Quad (extractLsb'_append_bytes _)).trans (b64Quad_b64Bits h0 h1 h2 h3)
    rw [b64DecodeBody, b64Encode_three, hquad, ih]
  | [], _, _ => rfl
  | [_], hlen, _ | [_, _], hlen, _ | [_, _, _], hlen, _ => by simp at hlen

theorem b64DecodeBody_length_mod_three :
    ∀ t : List Byte, t.length % 4 = 0 → (b64DecodeBody t).length % 3 = 0
  | _ :: _ :: _ :: _ :: rest, hlen => by
    have ih := b64DecodeBody_length_mod_three rest (by simp only [List.length_cons] at hlen; omega)
    simp only [b64DecodeBody, List.length_cons]
    omega
  | [], _ => rfl
  | [_], hlen | [_, _], hlen | [_, _, _], hlen => by simp at hlen

theorem b64Valid_of_isHex {t : List Byte} (h : isHex t = true) (hlen : t.length % 4 = 0) : b64Valid t = true :=
  (b64Valid_iff_exists t).mpr
    ⟨_, b64Encode_b64DecodeBody t hlen fun v hv => isSome_b64Val_of_hexVal (isSome_hexVal_of_isHex h v hv)⟩

theorem length_mod_four_of_b64Valid {t : List Byte} (h : b64Valid t = true) : t.length % 4 = 0 :=
  ((b64Valid_iff_conditions t).mp h).1

theorem padChar_notMem_of_isHex {t : List Byte} (h : isHex t = true) : padChar ∉ t := by
  intro hmem
  have hsome := isSome_hexVal_of_isHex h padChar hmem
  revert hsome
  decide

/-- Without padding the whole text is the body. -/
theorem b64Body_eq_self {t : List Byte} (h : padChar ∉ t) : b64Body t = t := by
  refine List.takeWhile_eq_self_iff.mpr fun c hc => ?_
  rw [bne_iff_ne]
  rintro rfl
  exact h hc

theorem b64Decode_length_mod_three {t : List Byte} (h : isHex t = true) (hvalid : b64Valid t = true) :
    (b64Decode t).length % 3 = 0 := by
  rw [b64Decode, b64Body_eq_self (padChar_notMem_of_isHex h)]
  exact b64DecodeBody_length_mod_three t (length_mod_four_of_b64Valid hvalid)

/-- The Base64 text of a ciphertext, a multiple of 8 bytes, that is all hex digits encodes a multiple of 3 bytes. -/
theorem length_of_isHex_b64Encode {c : List Byte} (hc : c.length % 8 = 0) (h : isHex (b64Encode c) = true) :
    0 < c.length ∧ c.length % 24 = 0 := by
  have hthree := b64Decode_length_mod_three h (b64Valid_b64Encode c)
  rw [b64Decode_b64Encode] at hthree
  obtain ⟨hpos, -, -⟩ := (isHex_iff _).mp h
  rw [b64Encode_length] at hpos
  omega

/-! ### Detect (R178) -/

theorem detectFmt_hex {s : List Byte} (h : isHex (strip s) = true) : detectFmt s = .hex := if_pos h

theorem detectFmt_base64 {s : List Byte} (hhex : isHex (strip s) = false) (h : b64Valid (strip s) = true) :
    detectFmt s = .base64 := by
  simp [detectFmt, hhex, h]

theorem detectFmt_raw {s : List Byte} (hhex : isHex (strip s) = false) (h : b64Valid (strip s) = false) :
    detectFmt s = .raw := by
  simp [detectFmt, hhex, h]

/-- Settles O44: hex digits are Base64 characters, and hex is looked for first. -/
theorem hexWinsTies : Obligations.HexWinsTies :=
  ⟨fun _ h hlen => ⟨b64Valid_of_isHex h hlen, detectFmt_hex h⟩,
    fun _ h hvalid => ⟨padChar_notMem_of_isHex h, length_mod_four_of_b64Valid hvalid,
      b64Decode_length_mod_three h hvalid⟩,
    fun _ hc h => length_of_isHex_b64Encode hc h⟩

/-- Hex and Base64 texts both have an even length. -/
theorem detectFmt_of_odd {s : List Byte} (h : (strip s).length % 2 = 1) : detectFmt s = .raw := by
  refine detectFmt_raw (Bool.eq_false_iff.mpr fun hhex => ?_) (Bool.eq_false_iff.mpr fun hvalid => ?_)
  · have := isHex_length_even hhex
    omega
  · have := length_mod_four_of_b64Valid hvalid
    omega

/-- Settles O45: DEC.auto finds RAW. -/
theorem oddLengthTextIsRaw : Obligations.OddLengthTextIsRaw := by
  refine ⟨fun s h => detectFmt_of_odd h, fun s hk hin h => ?_⟩
  have hexec : exec .decAuto s = decMessage (inFmtOf true) false s := rfl
  rw [hexec, decMessage_raw (auto := true) hk hin (detectFmt_of_odd h)]
  exact raised_raise s .unsupportedFormat .raw

/-! ### The ciphertext in the texts of ENC -/

/-- R148: what Detect and DecodeInput make of a hex text. The text of no bytes is no hex text but a Base64 text. -/
theorem decodeInput_hexEncode (sep : Bool) (c : List Byte) :
    detectFmt (hexEncode sep c) ≠ .raw ∧ decodeInput (detectFmt (hexEncode sep c)) (hexEncode sep c) = c := by
  by_cases hc : c = []
  · subst hc
    cases sep <;> exact ⟨by decide, rfl⟩
  · have hdetect : detectFmt (hexEncode sep c) = .hex :=
      detectFmt_hex (by rw [strip_hexEncode]; exact isHex_flatMap_hexPair hc)
    rw [hdetect, decodeInput, strip_hexEncode, hexDecode_flatMap_hexPair]
    exact ⟨by decide, rfl⟩

theorem decodeInput_b64Encode {c : List Byte} (h : isHex (b64Encode c) = false) :
    detectFmt (b64Encode c) ≠ .raw ∧ decodeInput (detectFmt (b64Encode c)) (b64Encode c) = c := by
  have hstrip := strip_b64Encode c
  have hdetect : detectFmt (b64Encode c) = .base64 :=
    detectFmt_base64 (by rw [hstrip, h]) (by rw [hstrip, b64Valid_b64Encode])
  rw [hdetect, decodeInput, hstrip, b64Decode_b64Encode]
  exact ⟨by decide, rfl⟩

/-! ### ENC, and DEC of its output (R148) -/

/-- The input of a command is the output of an earlier one, where INLEN and the bytes below it are. -/
theorem message_eq_of_wroteOut {s t u : State} {o : List Byte} (hout : WroteOut s t o)
    (hlen : t.outlen.toNat = o.length) (hinlen : u.operands.inlen = t.outlen)
    (hbytes : ∀ a, a < t.outlen.toNat → u.operandByte a = t.outByte a) : u.message = o := by
  have hmessage : u.message.length = o.length := by rw [message_length, hinlen, hlen]
  refine List.ext_getElem hmessage fun a ha ha' => ?_
  have hin : a < u.inputLen := by rwa [State.inputLen, hinlen, hlen]
  obtain ⟨-, hwritten, -⟩ := hout
  rw [List.getElem_eq_getD 0, List.getElem_eq_getD 0, message_getD u hin, hbytes a (hlen ▸ ha'), hwritten a ha']

/-- R213: an ENC that reports no error had room for its output. -/
theorem encText_length_le {s t : State} {f : OutFmt} (h : encMessage f s = .next t) (herr : t.err = .ok) :
    (s.encText f).length ≤ s.cfg.bufBytes := by
  obtain ⟨t', ht', herr'⟩ := reports_encMessage s f
  obtain rfl : t = t' := Host.Outcome.next.inj (h.symm.trans ht')
  by_contra hlen
  rw [herr] at herr'
  simp [State.encChecks, State.keyCheck, State.inputCheck, State.outputCheck, Nat.lt_of_not_le hlen] at herr'
  split at herr' <;> cases herr'

/-- The output of an ENC that succeeded, as the input of a later command. -/
theorem message_of_enc {s t u : State} {f : OutFmt} (hwf : s.cfg.wf = true) (h : encMessage f s = .next t)
    (herr : t.err = .ok) (hinlen : u.operands.inlen = t.outlen)
    (hbytes : ∀ a, a < t.outlen.toNat → u.operandByte a = t.outByte a) :
    u.message = encodeOutput f s.cipherText ∧ u.inputLen ≤ s.cfg.bufBytes := by
  have hroom := encText_length_le h herr
  have hout : WroteOut s t (s.encText f) := by
    rw [eq_of_encMessage_of_err_ok h herr]
    simp
  have hlen := outlen_toNat_of_wroteOut hwf hroom hout
  refine ⟨message_eq_of_wroteOut hout hlen hinlen hbytes, ?_⟩
  rwa [State.inputLen, hinlen, hlen]

section
variable {s u : State} (hcfg : u.cfg = s.cfg) (hkey : u.operands.key = s.operands.key)
  (hvalid : u.operands.keyValid = true) (hin : u.inputLen ≤ s.cfg.bufBytes)
include hcfg hkey hvalid hin

/-- A DEC whose decoded input is the ciphertext of `s`, with the same key and parameters, writes the message of `s`
without its trailing zero bytes. -/
theorem exists_dec_of_decSource {dec : Instr} {auto : Bool}
    (hdec : (dec, auto, false) ∈ [(Instr.decAuto, true, false), (.decAutoNostrip, true, true),
      (.decBytes, false, false), (.decBytesNostrip, false, true)])
    (hraw : (u.decSource auto).1 ≠ .raw) (hsource : (u.decSource auto).2 = s.cipherText) :
    ∃ v, exec dec u = .next v ∧ v.err = .ok ∧ WroteOut u v (unpad s.message) := by
  have hplain : decBytes u.cfg.blockOrder (keySchedule u.cfg.p u.cfg.q u.operands.key) (u.decSource auto).2
      = pad s.message := by
    rw [hcfg, hkey, hsource, State.cipherText, decBytes_encBytes _ _ _ (pad_length_mod _)]
  have htext : u.decText auto false = unpad s.message := by
    rw [State.decText, hplain, if_neg Bool.false_ne_true, pad, unpad_append_replicate]
  obtain ⟨-, -, -, -, hclauses⟩ := decWritesThePlaintext
  obtain ⟨-, -, -, -, hok⟩ := hclauses dec auto false u hdec
  obtain ⟨v, hv, ⟨-, -, -, herr, -⟩, hout, -⟩ :=
    hok hvalid (hcfg ▸ hin) hraw (by rw [hsource, cipherText_length_mod])
  rw [htext] at hout
  exact ⟨v, hv, herr, hout⟩

theorem exists_decBytes (hm : u.message = s.cipherText) :
    ∃ v, exec .decBytes u = .next v ∧ v.err = .ok ∧ WroteOut u v (unpad s.message) :=
  exists_dec_of_decSource hcfg hkey hvalid hin (auto := false) (by simp) (by simp [State.decSource]) hm

theorem exists_decAuto (hm : detectFmt u.message ≠ .raw ∧ decodeInput (detectFmt u.message) u.message = s.cipherText) :
    ∃ v, exec .decAuto u = .next v ∧ v.err = .ok ∧ WroteOut u v (unpad s.message) :=
  exists_dec_of_decSource hcfg hkey hvalid hin (auto := true) (by simp) hm.1 hm.2

end

/-- Settles O39: the four pairs differ in how the ciphertext stands in the text. -/
theorem encThenDecReturnsTheMessage : Obligations.EncThenDecReturnsTheMessage := by
  refine ⟨?_, unpad_eq_self_iff, fun c hc h => length_of_isHex_b64Encode hc h⟩
  intro enc dec s t u hpair hwf hexec herr hcfg hkey hvalid hinlen hbytes hhex
  simp only [List.mem_cons, Prod.mk.injEq, List.not_mem_nil, or_false] at hpair
  rcases hpair with ⟨rfl, rfl⟩ | ⟨rfl, rfl⟩ | ⟨rfl, rfl⟩ | ⟨rfl, rfl⟩
  · obtain ⟨hm, hin⟩ := message_of_enc (f := .raw) hwf hexec herr hinlen hbytes
    exact exists_decBytes hcfg hkey hvalid hin hm
  · obtain ⟨hm, hin⟩ := message_of_enc (f := .hex false) hwf hexec herr hinlen hbytes
    exact exists_decAuto hcfg hkey hvalid hin (hm ▸ decodeInput_hexEncode false s.cipherText)
  · obtain ⟨hm, hin⟩ := message_of_enc (f := .hex true) hwf hexec herr hinlen hbytes
    exact exists_decAuto hcfg hkey hvalid hin (hm ▸ decodeInput_hexEncode true s.cipherText)
  · obtain ⟨hm, hin⟩ := message_of_enc (f := .base64) hwf hexec herr hinlen hbytes
    exact exists_decAuto hcfg hkey hvalid hin (hm ▸ decodeInput_b64Encode (hhex rfl))

end Sys2Proof.Machine
end

section
/-! PROOF. The text check (42_message_transform.md R153): the sequences that `utf8Chars` takes one after the other are
those of the rows of R153's table, each with a code point inside its row, and the rejected ones are the listed ones.
-/

namespace Sys2Proof.Machine

/-! ### The sequences that `utf8Chars` takes -/

/-- A well-formed sequence and its code point, by its number of bytes. -/
inductive Utf8Seq : List Byte → Nat → Prop where
  | one (b0 : Byte) (h : b0.toNat ≤ 0x7F) : Utf8Seq [b0] b0.toNat
  | two (b0 b1 : Byte) (h : isSeq2 b0 b1 = true) : Utf8Seq [b0, b1] (b0.toNat % 32 * 64 + contBits b1)
  | three (b0 b1 b2 : Byte) (h : isSeq3 b0 b1 b2 = true) :
      Utf8Seq [b0, b1, b2] (b0.toNat % 16 * 4096 + contBits b1 * 64 + contBits b2)
  | four (b0 b1 b2 b3 : Byte) (h : isSeq4 b0 b1 b2 b3 = true) :
      Utf8Seq [b0, b1, b2, b3]
        (b0.toNat % 8 * 262144 + contBits b1 * 4096 + contBits b2 * 64 + contBits b3)

section
variable {b0 b1 b2 b3 : Byte}

theorem isSeq2_iff :
    isSeq2 b0 b1 = true ↔ (0xC2 ≤ b0.toNat ∧ b0.toNat ≤ 0xDF) ∧ 0x80 ≤ b1.toNat ∧ b1.toNat ≤ 0xBF := by
  simp [isSeq2, isCont, inRange]

theorem isSeq3_iff :
    isSeq3 b0 b1 b2 = true ↔
      ((0xE0 ≤ b0.toNat ∧ b0.toNat ≤ 0xE0) ∧ (0xA0 ≤ b1.toNat ∧ b1.toNat ≤ 0xBF) ∧ 0x80 ≤ b2.toNat ∧ b2.toNat ≤ 0xBF)
      ∨ ((0xE1 ≤ b0.toNat ∧ b0.toNat ≤ 0xEC) ∧ (0x80 ≤ b1.toNat ∧ b1.toNat ≤ 0xBF) ∧ 0x80 ≤ b2.toNat ∧ b2.toNat ≤ 0xBF)
      ∨ ((0xED ≤ b0.toNat ∧ b0.toNat ≤ 0xED) ∧ (0x80 ≤ b1.toNat ∧ b1.toNat ≤ 0x9F) ∧ 0x80 ≤ b2.toNat ∧ b2.toNat ≤ 0xBF)
      ∨ ((0xEE ≤ b0.toNat ∧ b0.toNat ≤ 0xEF) ∧ (0x80 ≤ b1.toNat ∧ b1.toNat ≤ 0xBF) ∧ 0x80 ≤ b2.toNat ∧ b2.toNat ≤ 0xBF)
    := by
  simp only [isSeq3, isCont, inRange, Bool.and_eq_true, Bool.or_eq_true, decide_eq_true_eq, or_and_right, and_assoc,
    or_assoc]

theorem isSeq4_iff :
    isSeq4 b0 b1 b2 b3 = true ↔
      ((0xF0 ≤ b0.toNat ∧ b0.toNat ≤ 0xF0) ∧ (0x90 ≤ b1.toNat ∧ b1.toNat ≤ 0xBF)
        ∧ (0x80 ≤ b2.toNat ∧ b2.toNat ≤ 0xBF) ∧ 0x80 ≤ b3.toNat ∧ b3.toNat ≤ 0xBF)
      ∨ ((0xF1 ≤ b0.toNat ∧ b0.toNat ≤ 0xF3) ∧ (0x80 ≤ b1.toNat ∧ b1.toNat ≤ 0xBF)
        ∧ (0x80 ≤ b2.toNat ∧ b2.toNat ≤ 0xBF) ∧ 0x80 ≤ b3.toNat ∧ b3.toNat ≤ 0xBF)
      ∨ ((0xF4 ≤ b0.toNat ∧ b0.toNat ≤ 0xF4) ∧ (0x80 ≤ b1.toNat ∧ b1.toNat ≤ 0x8F)
        ∧ (0x80 ≤ b2.toNat ∧ b2.toNat ≤ 0xBF) ∧ 0x80 ≤ b3.toNat ∧ b3.toNat ≤ 0xBF) := by
  simp only [isSeq4, isCont, inRange, Bool.and_eq_true, Bool.or_eq_true, decide_eq_true_eq, or_and_right, and_assoc,
    or_assoc]

end

/-- The ranges of the first byte tell the sequences apart, so the shorter ones are tried in vain. -/
theorem Utf8Seq.utf8Chars_append {q : List Byte} {c : Nat} (h : Utf8Seq q c) (rest : List Byte) :
    utf8Chars (q ++ rest) = (utf8Chars rest).map (c :: ·) := by
  rw [utf8Chars.eq_def]
  cases h with
  | one b0 h => exact if_pos h
  | two b0 b1 h =>
    have hr := isSeq2_iff.mp h
    have h1 : ¬ b0.toNat ≤ 0x7F := by omega
    exact (if_neg h1).trans (if_pos h)
  | three b0 b1 b2 h =>
    have hr := isSeq3_iff.mp h
    have h1 : ¬ b0.toNat ≤ 0x7F := by omega
    have h2 : ¬ isSeq2 b0 b1 = true := fun h2 => by
      have := isSeq2_iff.mp h2
      omega
    exact (if_neg h1).trans ((if_neg h2).trans (if_pos h))
  | four b0 b1 b2 b3 h =>
    have hr := isSeq4_iff.mp h
    have h1 : ¬ b0.toNat ≤ 0x7F := by omega
    have h2 : ¬ isSeq2 b0 b1 = true := fun h2 => by
      have := isSeq2_iff.mp h2
      omega
    have h3 : ¬ isSeq3 b0 b1 b2 = true := fun h3 => by
      have := isSeq3_iff.mp h3
      omega
    exact (if_neg h1).trans ((if_neg h2).trans ((if_neg h3).trans (if_pos h)))

/-- A well-formed string that is not empty begins with a sequence. -/
theorem exists_utf8Seq_of_utf8Chars {b : Byte} {p : List Byte} {cs : List Nat} (h : utf8Chars (b :: p) = some cs) :
    ∃ q c rest, b :: p = q ++ rest ∧ Utf8Seq q c := by
  rw [utf8Chars.eq_def] at h
  dsimp only at h
  split at h
  next h1 => exact ⟨[b], _, p, rfl, .one b h1⟩
  split at h
  next => cases h
  next b1 r1 =>
  split at h
  next h2 => exact ⟨[b, b1], _, r1, rfl, .two b b1 h2⟩
  split at h
  next => cases h
  next b2 r2 =>
  split at h
  next h3 => exact ⟨[b, b1, b2], _, r2, rfl, .three b b1 b2 h3⟩
  split at h
  next => cases h
  next b3 r3 =>
  split at h
  next h4 => exact ⟨[b, b1, b2, b3], _, r3, rfl, .four b b1 b2 b3 h4⟩
  next => cases h

/-! ### The rows of the table -/

/-- The sequences of the rows have their code points inside the row. -/
theorem exists_utf8Seq_of_inUtf8Row :
    ∀ row ∈ utf8Table, ∀ q, InUtf8Row row q → ∃ c, Utf8Seq q c ∧ row.1 ≤ c ∧ c ≤ row.2.1 := by
  simp only [utf8Table, List.forall_mem_cons, InUtf8Row, List.forall₂_cons_left_iff, List.forall₂_nil_left_iff]
  refine ⟨?_, ?_, ?_, ?_, ?_, ?_, ?_, ?_, ?_, by simp⟩
  · rintro _ ⟨b0, _, h0, rfl, rfl⟩
    exact ⟨_, .one b0 (by omega), by omega, by omega⟩
  · rintro _ ⟨b0, _, h0, ⟨b1, _, h1, rfl, rfl⟩, rfl⟩
    exact ⟨_, .two b0 b1 (isSeq2_iff.mpr (by omega)), by unfold contBits; omega, by unfold contBits; omega⟩
  case refine_3 | refine_4 | refine_5 | refine_6 =>
    rintro _ ⟨b0, _, h0, ⟨b1, _, h1, ⟨b2, _, h2, rfl, rfl⟩, rfl⟩, rfl⟩
    exact ⟨_, .three b0 b1 b2 (isSeq3_iff.mpr (by omega)), by unfold contBits; omega, by unfold contBits; omega⟩
  all_goals
    rintro _ ⟨b0, _, h0, ⟨b1, _, h1, ⟨b2, _, h2, ⟨b3, _, h3, rfl, rfl⟩, rfl⟩, rfl⟩, rfl⟩
    exact ⟨_, .four b0 b1 b2 b3 (isSeq4_iff.mpr (by omega)), by unfold contBits; omega, by unfold contBits; omega⟩

theorem exists_row_of_utf8Seq {q : List Byte} {c : Nat} (h : Utf8Seq q c) : ∃ row ∈ utf8Table, InUtf8Row row q := by
  cases h with
  | one b0 h => simpa [utf8Table, InUtf8Row] using h
  | two b0 b1 h => simpa [utf8Table, InUtf8Row] using isSeq2_iff.mp h
  | three b0 b1 b2 h => simpa [utf8Table, InUtf8Row] using isSeq3_iff.mp h
  | four b0 b1 b2 b3 h => simpa [utf8Table, InUtf8Row] using isSeq4_iff.mp h

/-! ### The rejected characters (R153, 2) -/

theorem isRejectedChar_iff (c : Nat) :
    isRejectedChar c = true ↔ c = 0xFFFD ∨ c ≤ 0x08 ∨ c = 0x0B ∨ c = 0x0C ∨ (0x0E ≤ c ∧ c ≤ 0x1F)
      ∨ (0x7F ≤ c ∧ c ≤ 0x9F) := by
  simp [isRejectedChar, or_assoc]

/-- Above the control characters only U+FFFD is rejected. -/
theorem isRejectedChar_iff_of_ge {c : Nat} (h : 0xA0 ≤ c) : isRejectedChar c = true ↔ c = 0xFFFD := by
  rw [isRejectedChar_iff]
  omega

section
variable (b0 b1 b2 b3 : Byte)

theorem mem_rejectedSequences_one :
    [b0] ∈ rejectedSequences ↔ b0.toNat < 0x09 ∨ b0.toNat = 0x0B ∨ b0.toNat = 0x0C
      ∨ (0x0E ≤ b0.toNat ∧ b0.toNat < 0x20) ∨ b0.toNat = 0x7F := by
  have h : [b0] ∈ rejectedSequences ↔
      b0.toNat < 0x09 ∨ b0 = 0x0B ∨ b0 = 0x0C ∨ (0x0E ≤ b0.toNat ∧ b0.toNat < 0x20) ∨ b0 = 0x7F := by
    simp [rejectedSequences, mem_byteRow (by decide : 0x00 + 9 ≤ 256), mem_byteRow (by decide : 0x0E + 18 ≤ 256)]
  simpa [BitVec.toNat_eq] using h

theorem mem_rejectedSequences_two :
    [b0, b1] ∈ rejectedSequences ↔ (0x80 ≤ b1.toNat ∧ b1.toNat < 0xA0) ∧ 0xC2 = b0.toNat := by
  have h : [b0, b1] ∈ rejectedSequences ↔ (0x80 ≤ b1.toNat ∧ b1.toNat < 0xA0) ∧ 0xC2 = b0 := by
    simp [rejectedSequences, mem_byteRow (by decide : 0x80 + 32 ≤ 256)]
  simpa [BitVec.toNat_eq] using h

theorem mem_rejectedSequences_three :
    [b0, b1, b2] ∈ rejectedSequences ↔ b0.toNat = 0xEF ∧ b1.toNat = 0xBF ∧ b2.toNat = 0xBD := by
  simp [rejectedSequences, BitVec.toNat_eq]

theorem notMem_rejectedSequences_four : [b0, b1, b2, b3] ∉ rejectedSequences := by
  simp [rejectedSequences]

end

/-- The listed sequences are those whose code points R153 rejects. -/
theorem Utf8Seq.mem_rejectedSequences_iff {q : List Byte} {c : Nat} (h : Utf8Seq q c) :
    q ∈ rejectedSequences ↔ isRejectedChar c = true := by
  cases h with
  | one b0 h =>
    rw [mem_rejectedSequences_one, isRejectedChar_iff]
    omega
  | two b0 b1 h =>
    have hr := isSeq2_iff.mp h
    rw [mem_rejectedSequences_two, isRejectedChar_iff, contBits]
    omega
  | three b0 b1 b2 h =>
    have hr := isSeq3_iff.mp h
    rw [contBits, contBits, isRejectedChar_iff_of_ge (by omega), mem_rejectedSequences_three]
    omega
  | four b0 b1 b2 b3 h =>
    have hr := isSeq4_iff.mp h
    refine iff_of_false (notMem_rejectedSequences_four b0 b1 b2 b3) ?_
    rw [contBits, contBits, contBits, isRejectedChar_iff_of_ge (by omega)]
    omega

/-! ### The check, sequence by sequence -/

theorem isPlainText_nil : isPlainText [] = true := by decide

theorem exists_utf8Chars_of_isPlainText {p : List Byte} (h : isPlainText p = true) : ∃ cs, utf8Chars p = some cs := by
  unfold isPlainText at h
  split at h
  next => cases h
  next cs hcs => exact ⟨cs, hcs⟩

/-- A string that begins with a sequence is text when that is no rejected character and the rest is text. -/
theorem Utf8Seq.isPlainText_append {q : List Byte} {c : Nat} (h : Utf8Seq q c) (rest : List Byte) :
    isPlainText (q ++ rest) = true ↔ q ∉ rejectedSequences ∧ isPlainText rest = true := by
  rw [h.mem_rejectedSequences_iff, isPlainText, isPlainText, h.utf8Chars_append]
  cases utf8Chars rest with
  | none => simp
  | some cs => simp

/-- What R153 accepts: a row of sequences of the table, none of them a rejected character. -/
def TextSequences (seqs : List (List Byte)) : Prop :=
  ∀ q ∈ seqs, (∃ row ∈ utf8Table, InUtf8Row row q) ∧ q ∉ rejectedSequences

theorem exists_utf8Seq_of_row {q : List Byte} (h : ∃ row ∈ utf8Table, InUtf8Row row q) : ∃ c, Utf8Seq q c := by
  obtain ⟨row, hrow, hq⟩ := h
  obtain ⟨c, hc, -⟩ := exists_utf8Seq_of_inUtf8Row row hrow q hq
  exact ⟨c, hc⟩

theorem isPlainText_flatten {seqs : List (List Byte)} (h : TextSequences seqs) : isPlainText seqs.flatten = true := by
  induction seqs with
  | nil => exact isPlainText_nil
  | cons q seqs ih =>
    obtain ⟨hq, hrest⟩ := List.forall_mem_cons.mp h
    obtain ⟨c, hc⟩ := exists_utf8Seq_of_row hq.1
    exact (hc.isPlainText_append _).mpr ⟨hq.2, ih hrest⟩

theorem Utf8Seq.length_pos {q : List Byte} {c : Nat} (h : Utf8Seq q c) : 0 < q.length := by
  cases h <;> exact Nat.succ_pos _

/-- By induction on the length: the first sequence is taken off. -/
theorem exists_textSequences (n : Nat) :
    ∀ p : List Byte, p.length = n → isPlainText p = true → ∃ seqs, p = seqs.flatten ∧ TextSequences seqs := by
  induction n using Nat.strong_induction_on with
  | h n ih =>
    intro p hn h
    cases p with
    | nil => exact ⟨[], rfl, by simp [TextSequences]⟩
    | cons b p =>
      obtain ⟨cs, hcs⟩ := exists_utf8Chars_of_isPlainText h
      obtain ⟨q, c, rest, heq, hq⟩ := exists_utf8Seq_of_utf8Chars hcs
      rw [heq] at h hn ⊢
      obtain ⟨hnot, hrest⟩ := (hq.isPlainText_append rest).mp h
      have hlt : rest.length < n := by
        have := hq.length_pos
        rw [List.length_append] at hn
        omega
      obtain ⟨seqs, rfl, hseqs⟩ := ih _ hlt rest rfl hrest
      exact ⟨q :: seqs, rfl, List.forall_mem_cons.mpr ⟨⟨exists_row_of_utf8Seq hq, hnot⟩, hseqs⟩⟩

theorem isPlainText_iff (p : List Byte) : isPlainText p = true ↔ ∃ seqs, p = seqs.flatten ∧ TextSequences seqs := by
  refine ⟨exists_textSequences _ p rfl, ?_⟩
  rintro ⟨seqs, rfl, h⟩
  exact isPlainText_flatten h

/-! ### Bytes that no text holds, and ASCII -/

/-- A byte of a sequence: the only one, a continuation byte, or a first byte of the table. -/
theorem Utf8Seq.byte_cases {q : List Byte} {c : Nat} (h : Utf8Seq q c) {v : Byte} (hv : v ∈ q) :
    (q = [v] ∧ v.toNat ≤ 0x7F) ∨ (0x80 ≤ v.toNat ∧ v.toNat ≤ 0xBF) ∨ (0xC2 ≤ v.toNat ∧ v.toNat ≤ 0xF4) := by
  cases h with
  | one b0 h =>
    obtain rfl : v = b0 := by simpa using hv
    exact .inl ⟨rfl, h⟩
  | two b0 b1 h =>
    have hr := isSeq2_iff.mp h
    simp only [List.mem_cons, List.not_mem_nil, or_false] at hv
    rcases hv with rfl | rfl <;> right <;> omega
  | three b0 b1 b2 h =>
    have hr := isSeq3_iff.mp h
    simp only [List.mem_cons, List.not_mem_nil, or_false] at hv
    rcases hv with rfl | rfl | rfl <;> right <;> omega
  | four b0 b1 b2 b3 h =>
    have hr := isSeq4_iff.mp h
    simp only [List.mem_cons, List.not_mem_nil, or_false] at hv
    rcases hv with rfl | rfl | rfl | rfl <;> right <;> omega

/-- A byte of a text is one of these, and if it is a character of its own, that is no rejected one. -/
theorem byte_cases_of_isPlainText {p : List Byte} (h : isPlainText p = true) {v : Byte} (hv : v ∈ p) :
    (v.toNat ≤ 0x7F ∧ [v] ∉ rejectedSequences) ∨ (0x80 ≤ v.toNat ∧ v.toNat ≤ 0xBF)
      ∨ (0xC2 ≤ v.toNat ∧ v.toNat ≤ 0xF4) := by
  obtain ⟨seqs, rfl, hseqs⟩ := (isPlainText_iff p).mp h
  obtain ⟨q, hq, hvq⟩ := List.mem_flatten.mp hv
  obtain ⟨hrow, hnot⟩ := hseqs q hq
  obtain ⟨c, hc⟩ := exists_utf8Seq_of_row hrow
  rcases hc.byte_cases hvq with ⟨rfl, hle⟩ | hrange
  · exact .inl ⟨hle, hnot⟩
  · exact .inr hrange

theorem isPlainText_ascii {p : List Byte}
    (h : ∀ v ∈ p, (0x20 ≤ v.toNat ∧ v.toNat ≤ 0x7E) ∨ v = 0x09 ∨ v = 0x0A ∨ v = 0x0D) : isPlainText p = true := by
  induction p with
  | nil => exact isPlainText_nil
  | cons v p ih =>
    obtain ⟨hv, hp⟩ := List.forall_mem_cons.mp h
    have hbounds : v.toNat ≤ 0x7F ∧ [v] ∉ rejectedSequences := by
      rw [mem_rejectedSequences_one]
      bv_omega
    exact ((Utf8Seq.one v hbounds.1).isPlainText_append p).mpr ⟨hbounds.2, ih hp⟩

/-- Settles O41: the sequences, their code points, and what follows for single bytes. -/
theorem textCheckOnAsciiAndForbiddenBytes : Obligations.TextCheckOnAsciiAndForbiddenBytes := by
  refine ⟨isPlainText_iff, fun row hrow q hq => ?_,
    fun p => ⟨fun hv => ?_, fun v hv hforbidden => ?_, isPlainText_ascii⟩⟩
  · obtain ⟨c, hc, hbounds⟩ := exists_utf8Seq_of_inUtf8Row row hrow q hq
    have hchars := hc.utf8Chars_append []
    rw [List.append_nil] at hchars
    exact ⟨c, hchars.trans rfl, hbounds⟩
  · refine Bool.eq_false_iff.mpr fun h => ?_
    have hcases := byte_cases_of_isPlainText h hv
    rw [mem_rejectedSequences_one] at hcases
    revert hcases
    decide
  · refine Bool.eq_false_iff.mpr fun h => ?_
    have hcases := byte_cases_of_isPlainText h hv
    bv_omega

end Sys2Proof.Machine
end
